-- ==== Sys2Proof/Word.lean ====
section
/-!
DEFINITION. The word types of the S3-family drawing engine (spec/00_scope.md R11: bits numbered from 0 at the
least significant bit).
-/
namespace Sys2Proof

/-- One byte of the bus, of VRAM or of a register lane. -/
abbrev Byte := BitVec 8

/-- A 16-bit register or bus value. -/
abbrev Half := BitVec 16

/-- A 32-bit register, bus value or pixel (R31). -/
abbrev Word := BitVec 32

end Sys2Proof
end

