-- ==== Sys2Proof/Syntax.lean ====
section
/-!
DEFINITION. The bus operations of the host, one constructor of `Instr` for each row of
spec/opcode_table.json, and the names they are built from. The machine gives every constructor its meaning in
Sys2Proof/Machine; Decode.lean reads them from the records of a host program.
-/
namespace Sys2Proof

/-- Width of a bus access: 8, 16 or 32 bits (spec/20_memory.md R86). -/
inductive Width where
  | w8
  | w16
  | w32
  deriving DecidableEq, Repr

/-- The three host address spaces through which the block is reached (R88). -/
inductive Space where
  | io
  | legacyMmio
  | newMmio
  deriving DecidableEq, Repr

/-- The two memory-mapped windows (R115, R116). -/
inductive Window where
  | legacy
  | linear
  deriving DecidableEq, Repr

/-- What a bus access does: write a value, held in the low bits of a word, or read (R118). -/
inductive BusAction where
  | write (w : Width) (v : Word)
  | read (w : Width)
  deriving DecidableEq, Repr

/-- The 16-bit registers of the I/O port map (spec/30_encoding.md R110), `PIX_TRANS` apart. `subsys` is
`SUBSYS_CNTL` when written and `SUBSYS_STAT` when read, `cmd` is `CMD` when written and `GP_STAT` when read. -/
inductive PortReg where
  | subsys
  | advfunc
  | curY
  | curX
  | destyAxstp
  | destxDiastp
  | errTerm
  | majAxisPcnt
  | cmd
  | shortStroke
  | bkgdColor
  | frgdColor
  | wrtMask
  | rdMask
  | colorCmp
  | bkgdMix
  | frgdMix
  | multifunc
  | curY2
  | curX2
  | desty2
  | destx2
  deriving DecidableEq, Repr

/-- The packed registers of R117. -/
inductive PackedReg where
  | bkgdColor
  | frgdColor
  | wrtMask
  | rdMask
  | colorCmp
  | mix
  | scissorsTl
  | scissorsBr
  | pixCntlMisc2
  | multMiscRdsel
  deriving DecidableEq, Repr

/-- The fields of a `CMD` word below its class (R120). `incY`, `ymaj`, `incX` are also the three bits of the
radial direction code, most significant first; `rsv` is the reserved bit 1. -/
structure CmdOpts where
  swap : Bool
  pat8 : Bool
  bus : BitVec 2
  pcdata : Bool
  incY : Bool
  ymaj : Bool
  incX : Bool
  draw : Bool
  radial : Bool
  lpn : Bool
  rsv : Bool
  wrtdata : Bool
  deriving DecidableEq, Repr

/-- One bus operation of the host, one constructor for each row of the opcode table.

* The twelve commands (`nop` to `patfill`) are the 16-bit write of a `CMD` word of their class, at port or
  MMIO offset 0x9AE8 of the space `sp`; the fields a row fixes are fixed by `WellFormed`.
* `ssv` is the write of one stroke byte, at 0x9EE8 or (`hi`) at 0x9EE9.
* `out…`/`in…` are port accesses at the register's base port, or (`odd`) at the byte after it; those of
  `PIX_TRANS` carry the two low bits of the port.
* The MMIO rows carry the window, the 17-bit offset and what the access does. -/
inductive Instr where
  | nop (sp : Space) (o : CmdOpts)
  | line (sp : Space) (o : CmdOpts)
  | lineRadial (sp : Space) (o : CmdOpts)
  | rect (sp : Space) (o : CmdOpts)
  | rectCpu (sp : Space) (o : CmdOpts)
  | rectRead (sp : Space) (o : CmdOpts)
  | polySolid (sp : Space) (o : CmdOpts)
  | polyPat (sp : Space) (o : CmdOpts)
  | ropblt (sp : Space) (o : CmdOpts)
  | polyline (sp : Space) (o : CmdOpts)
  | bitblt (sp : Space) (o : CmdOpts)
  | patfill (sp : Space) (o : CmdOpts)
  | ssv (sp : Space) (hi : Bool) (dir : BitVec 3) (draw : Bool) (len : BitVec 4)
  | outSubsysCntl (odd : Bool) (w : Width) (v : Word)
  | inSubsysStat (odd : Bool) (w : Width)
  | outAdvfuncCntl (odd : Bool) (w : Width) (v : Word)
  | inAdvfuncCntl (odd : Bool) (w : Width)
  | outCurY (odd : Bool) (w : Width) (v : Word)
  | inCurY (odd : Bool) (w : Width)
  | outCurX (odd : Bool) (w : Width) (v : Word)
  | inCurX (odd : Bool) (w : Width)
  | outDestyAxstp (odd : Bool) (w : Width) (v : Word)
  | inDestyAxstp (odd : Bool) (w : Width)
  | outDestxDiastp (odd : Bool) (w : Width) (v : Word)
  | inDestxDiastp (odd : Bool) (w : Width)
  | outErrTerm (odd : Bool) (w : Width) (v : Word)
  | inErrTerm (odd : Bool) (w : Width)
  | outMajAxisPcnt (odd : Bool) (w : Width) (v : Word)
  | inMajAxisPcnt (odd : Bool) (w : Width)
  | outCmd (odd : Bool) (w : Width) (v : Word)
  | inGpStat (odd : Bool) (w : Width)
  | outShortStroke (odd : Bool) (w : Width) (v : Word)
  | inShortStroke (odd : Bool) (w : Width)
  | outBkgdColor (odd : Bool) (w : Width) (v : Word)
  | inBkgdColor (odd : Bool) (w : Width)
  | outFrgdColor (odd : Bool) (w : Width) (v : Word)
  | inFrgdColor (odd : Bool) (w : Width)
  | outWrtMask (odd : Bool) (w : Width) (v : Word)
  | inWrtMask (odd : Bool) (w : Width)
  | outRdMask (odd : Bool) (w : Width) (v : Word)
  | inRdMask (odd : Bool) (w : Width)
  | outColorCmp (odd : Bool) (w : Width) (v : Word)
  | inColorCmp (odd : Bool) (w : Width)
  | outBkgdMix (odd : Bool) (w : Width) (v : Word)
  | inBkgdMix (odd : Bool) (w : Width)
  | outFrgdMix (odd : Bool) (w : Width) (v : Word)
  | inFrgdMix (odd : Bool) (w : Width)
  | outMultifunc (odd : Bool) (w : Width) (v : Word)
  | inMultifunc (odd : Bool) (w : Width)
  | outPixTrans (lane : BitVec 2) (w : Width) (v : Word)
  | inPixTrans (lane : BitVec 2) (w : Width)
  | outCurY2 (odd : Bool) (w : Width) (v : Word)
  | inCurY2 (odd : Bool) (w : Width)
  | outCurX2 (odd : Bool) (w : Width) (v : Word)
  | inCurX2 (odd : Bool) (w : Width)
  | outDesty2 (odd : Bool) (w : Width) (v : Word)
  | inDesty2 (odd : Bool) (w : Width)
  | outDestx2 (odd : Bool) (w : Width) (v : Word)
  | inDestx2 (odd : Bool) (w : Width)
  | ioUnmapped (port : BitVec 16) (act : BusAction)
  | mmioPixTrans (win : Window) (off : BitVec 17) (act : BusAction)
  | mmioReg (win : Window) (off : BitVec 17) (act : BusAction)
  | mw32PkBkgdColor (win : Window) (v : Word)
  | mr32PkBkgdColor (win : Window)
  | mw32PkFrgdColor (win : Window) (v : Word)
  | mr32PkFrgdColor (win : Window)
  | mw32PkWrtMask (win : Window) (v : Word)
  | mr32PkWrtMask (win : Window)
  | mw32PkRdMask (win : Window) (v : Word)
  | mr32PkRdMask (win : Window)
  | mw32PkColorCmp (win : Window) (v : Word)
  | mr32PkColorCmp (win : Window)
  | mw32PkMix (win : Window) (v : Word)
  | mr32PkMix (win : Window)
  | mw32PkScissorsTl (win : Window) (v : Word)
  | mr32PkScissorsTl (win : Window)
  | mw32PkScissorsBr (win : Window) (v : Word)
  | mr32PkScissorsBr (win : Window)
  | mw32PkPixCntlMisc2 (win : Window) (v : Word)
  | mr32PkPixCntlMisc2 (win : Window)
  | mw32PkMultMiscRdsel (win : Window) (v : Word)
  | mr32PkMultMiscRdsel (win : Window)
  | mmioUnmapped (off : BitVec 17) (act : BusAction)
  | mmioStreams (off : BitVec 17) (act : BusAction)
  deriving DecidableEq, Repr

end Sys2Proof
end

