-- ==== Sys2Proof/Machine/Ports.lean ====
section
/-!
DEFINITION. The address tables of the block: the I/O port map (spec/30_encoding.md R110) and the default
packed-register map (R117), with the look-ups over them. The decoder and the machine both read these tables.
-/
namespace Sys2Proof

/-- Base port of a register, that of its low byte (R110). -/
def portOf : PortReg → Nat
  | .subsys => 0x42E8
  | .advfunc => 0x4AE8
  | .curY => 0x82E8
  | .curX => 0x86E8
  | .destyAxstp => 0x8AE8
  | .destxDiastp => 0x8EE8
  | .errTerm => 0x92E8
  | .majAxisPcnt => 0x96E8
  | .cmd => 0x9AE8
  | .shortStroke => 0x9EE8
  | .bkgdColor => 0xA2E8
  | .frgdColor => 0xA6E8
  | .wrtMask => 0xAAE8
  | .rdMask => 0xAEE8
  | .colorCmp => 0xB2E8
  | .bkgdMix => 0xB6E8
  | .frgdMix => 0xBAE8
  | .multifunc => 0xBEE8
  | .curY2 => 0x82EA
  | .curX2 => 0x86EA
  | .desty2 => 0x8AEA
  | .destx2 => 0x8EEA

/-- Every 16-bit register of the port map, in the order of R110. -/
def portRegs : List PortReg :=
  [.subsys, .advfunc, .curY, .curX, .destyAxstp, .destxDiastp, .errTerm, .majAxisPcnt, .cmd, .shortStroke, .bkgdColor, .frgdColor, .wrtMask, .rdMask, .colorCmp, .bkgdMix, .frgdMix, .multifunc,
   .curY2, .curX2, .desty2, .destx2]

/-- First and last byte of the `PIX_TRANS` port (R110). -/
def pixPortLo : Nat := 0xE2E8
/-- Last byte of the `PIX_TRANS` port (R110). -/
def pixPortHi : Nat := 0xE2EB

/-- Whether a port is one of the four bytes of `PIX_TRANS`. -/
def isPixPort (a : Nat) : Bool := decide (pixPortLo ≤ a) && decide (a ≤ pixPortHi)

/-- Look a port up in a list of registers: the register and whether the port is its high byte (R84). -/
def findPortIn (a : Nat) : List PortReg → Option (PortReg × Bool)
  | [] => none
  | r :: rs =>
    if a = portOf r then some (r, false)
    else if a = portOf r + 1 then some (r, true)
    else findPortIn a rs

/-- The 16-bit register a port belongs to, and whether the port is its high byte (R84, R110). -/
def findPort (a : Nat) : Option (PortReg × Bool) := findPortIn a portRegs

/-- Whether a port is one of R110's: a byte of a 16-bit register or of `PIX_TRANS`. -/
def isPort (a : Nat) : Bool := isPixPort a || (findPort a).isSome

/-- Offset of a packed register in the default packed map (R117). -/
def packedOffset : PackedReg → Nat
  | .bkgdColor => 0x8120
  | .frgdColor => 0x8124
  | .wrtMask => 0x8128
  | .rdMask => 0x812C
  | .colorCmp => 0x8130
  | .mix => 0x8134
  | .scissorsTl => 0x8138
  | .scissorsBr => 0x813C
  | .pixCntlMisc2 => 0x8140
  | .multMiscRdsel => 0x8144

/-- Every packed register, in the order of R117. -/
def packedRegs : List PackedReg :=
  [.bkgdColor, .frgdColor, .wrtMask, .rdMask, .colorCmp, .mix,
   .scissorsTl, .scissorsBr, .pixCntlMisc2, .multMiscRdsel]

/-- The default packed map as a table from offsets to registers (R117). -/
def defaultPackedMap : List (Nat × PackedReg) := packedRegs.map fun k => (packedOffset k, k)

/-- Look an offset up in a packed map. -/
def findPacked (a : Nat) : List (Nat × PackedReg) → Option PackedReg
  | [] => none
  | (o, k) :: rest => if a = o then some k else findPacked a rest

end Sys2Proof
end

