-- ==== Sys2Proof/Config.lean ====
section
/-!
DEFINITION. The configuration of a session (spec/00_scope.md R9, R10, R20) and the free values.

The configuration is no state of the block: no operation writes it (spec/10_state.md R65). It stands as plain
data in a field of State so that every claim is a claim about every configuration (assumption log entry 4).
The opaque constants at the end have no body: nothing can be proved of their values (entries 8 to 13).
-/
namespace Sys2Proof

/-- The capability table of a chip (R20). -/
structure Cap where
  hasPackedMmio : Bool
  hasLegacyMmio : Bool
  hasNewMmio : Bool
  hasPolyline : Bool
  hasRopblt : Bool
  hasPolygon : Bool
  byteDoubling : Bool
  hasPacked32 : Bool
  fifoCapable : Bool
  fifoAlwaysOn : Bool
  deriving DecidableEq, Repr

/-- Colour depth of the mode (R10). -/
inductive Depth where
  | bpp8
  | bpp15
  | bpp16
  | bpp24
  | bpp32
  deriving DecidableEq, Repr

/-- The coordinate modulus, 4096 or 2048 (R9, spec/90_conflicts.md C7). -/
inductive CoordMod where
  | m4096
  | m2048
  deriving DecidableEq, Repr

/-- The VRAM remap function (spec/20_memory.md R90): the identity, or a chip's function for an addressing
mode, which the spec does not give (assumption log entry 10). -/
inductive Remap where
  | identity
  | chip (mode : Nat)
  deriving DecidableEq, Repr

/-- Where the 8-bit code of a ROPBlt is read (spec/45_blits.md R321): the two mix nibbles, or a source the
spec does not give (assumption log entry 11). -/
inductive RopCodeSource where
  | mixNibbles
  | chip (mode : Nat)
  deriving DecidableEq, Repr

/-- The configuration of a session (R9). `vramBits` is the `k` of `vram_mask = 2^k - 1` (R80). -/
structure Config where
  cap : Cap
  depth : Depth
  color16 : Bool
  pitch : Nat
  vramBits : Nat
  destBase : Nat
  srcBase : Nat
  remap : Remap
  coordMod : CoordMod
  linearBase : Nat
  lpnHonoured : Bool
  aliases : List (Nat × Nat)
  packedMap : List (Nat × PackedReg)
  ropSource : RopCodeSource
  deriving DecidableEq, Repr

/-- The ring size (R9). -/
def Config.fifoSize : Nat := 65536

/-- The slots of the ring kept free (R9). -/
def Config.fifoHeadroom : Nat := 4

/-- The `n`-th free value of `draw()` (R13; assumption log entry 9). -/
opaque Config.draw : Nat → Word

/-- The remap function of a chip's addressing mode, on pixel indices (R90; entry 10). -/
opaque Config.chipRemap : Nat → Nat → Nat

/-- The ROP code a chip's own source gives, from the mode and the register values, listed as words (R321;
entry 11). -/
opaque Config.chipRopCode : Nat → List Word → BitVec 8

/-- What a ring slot nothing has written holds: tag and address word, value word, kind (R60, U6; entry 8). -/
opaque Config.ringPowerOn : Nat → Word × Word × Bool

end Sys2Proof
end

