-- ==== Sys2Proof/WellFormed.lean ====
section
/-!
DEFINITION. Which terms of `Instr` stand for a bus operation of their row of spec/opcode_table.json: the fields
a `CMD` row fixes, a value that fits its width, an address inside the row's range. `exec` is total on every
term; the encoder is faithful on these.
-/
namespace Sys2Proof

/-- A written value fits the width of the access. -/
def valueFits : Width → Word → Bool
  | .w8, v => decide (v.toNat < 2 ^ 8)
  | .w16, v => decide (v.toNat < 2 ^ 16)
  | .w32, _ => true

/-- The value of an access, if it writes one, fits its width. -/
def BusAction.fits : BusAction → Bool
  | .write w v => valueFits w v
  | .read _ => true

/-- Width of an access. -/
def BusAction.width : BusAction → Width
  | .write w _ => w
  | .read w => w

/-- A 32-bit access at an offset of the packed map is a packed row, not an `MMIO_REG` one
(spec/opcode_table.json, row MMIO_REG). -/
def isPackedRow (off : Nat) (act : BusAction) : Bool :=
  decide (act.width = .w32) && (findPacked off defaultPackedMap).isSome

/-- Well-formedness of a bus operation: it is an instance of its row. -/
def Instr.wf : Instr → Bool
  | .nop _ _ => true
  | .line _ o => !o.radial
  | .lineRadial _ o => o.radial
  | .rect _ o => !o.pcdata
  | .rectCpu _ o => o.pcdata && o.wrtdata
  | .rectRead _ o => o.pcdata && !o.wrtdata
  | .polySolid _ o => !o.pat8
  | .polyPat _ o => o.pat8
  | .ropblt _ _ => true
  | .polyline _ _ => true
  | .bitblt _ _ => true
  | .patfill _ _ => true
  | .ssv _ _ _ _ _ => true
  | .outSubsysCntl _ w v => valueFits w v
  | .inSubsysStat _ _ => true
  | .outAdvfuncCntl _ w v => valueFits w v
  | .inAdvfuncCntl _ _ => true
  | .outCurY _ w v => valueFits w v
  | .inCurY _ _ => true
  | .outCurX _ w v => valueFits w v
  | .inCurX _ _ => true
  | .outDestyAxstp _ w v => valueFits w v
  | .inDestyAxstp _ _ => true
  | .outDestxDiastp _ w v => valueFits w v
  | .inDestxDiastp _ _ => true
  | .outErrTerm _ w v => valueFits w v
  | .inErrTerm _ _ => true
  | .outMajAxisPcnt _ w v => valueFits w v
  | .inMajAxisPcnt _ _ => true
  | .outCmd _ w v => valueFits w v
  | .inGpStat _ _ => true
  | .outShortStroke _ w v => valueFits w v
  | .inShortStroke _ _ => true
  | .outBkgdColor _ w v => valueFits w v
  | .inBkgdColor _ _ => true
  | .outFrgdColor _ w v => valueFits w v
  | .inFrgdColor _ _ => true
  | .outWrtMask _ w v => valueFits w v
  | .inWrtMask _ _ => true
  | .outRdMask _ w v => valueFits w v
  | .inRdMask _ _ => true
  | .outColorCmp _ w v => valueFits w v
  | .inColorCmp _ _ => true
  | .outBkgdMix _ w v => valueFits w v
  | .inBkgdMix _ _ => true
  | .outFrgdMix _ w v => valueFits w v
  | .inFrgdMix _ _ => true
  | .outMultifunc _ w v => valueFits w v
  | .inMultifunc _ _ => true
  | .outPixTrans _ w v => valueFits w v
  | .inPixTrans _ _ => true
  | .outCurY2 _ w v => valueFits w v
  | .inCurY2 _ _ => true
  | .outCurX2 _ w v => valueFits w v
  | .inCurX2 _ _ => true
  | .outDesty2 _ w v => valueFits w v
  | .inDesty2 _ _ => true
  | .outDestx2 _ w v => valueFits w v
  | .inDestx2 _ _ => true
  | .ioUnmapped port act => !isPort port.toNat && act.fits
  | .mmioPixTrans _ off act => decide (off.toNat < 0x8000) && act.fits
  | .mmioReg _ off act =>
    decide (0x8000 ≤ off.toNat) && decide (off.toNat < 0x10000) && !isPackedRow off.toNat act && act.fits
  | .mw32PkBkgdColor _ _ => true
  | .mr32PkBkgdColor _ => true
  | .mw32PkFrgdColor _ _ => true
  | .mr32PkFrgdColor _ => true
  | .mw32PkWrtMask _ _ => true
  | .mr32PkWrtMask _ => true
  | .mw32PkRdMask _ _ => true
  | .mr32PkRdMask _ => true
  | .mw32PkColorCmp _ _ => true
  | .mr32PkColorCmp _ => true
  | .mw32PkMix _ _ => true
  | .mr32PkMix _ => true
  | .mw32PkScissorsTl _ _ => true
  | .mr32PkScissorsTl _ => true
  | .mw32PkScissorsBr _ _ => true
  | .mr32PkScissorsBr _ => true
  | .mw32PkPixCntlMisc2 _ _ => true
  | .mr32PkPixCntlMisc2 _ => true
  | .mw32PkMultMiscRdsel _ _ => true
  | .mr32PkMultMiscRdsel _ => true
  | .mmioUnmapped off act => decide (0x10000 ≤ off.toNat) && decide (off.toNat < 0x18000) && act.fits
  | .mmioStreams off act => decide (0x18000 ≤ off.toNat) && act.fits

end Sys2Proof
end

