-- ==== Sys2Proof/Decode.lean ====
section
/-!
DEFINITION. Decoding of a host program and, after it, the encoder.

The block fetches no instruction (spec/10_state.md R67): its program is the host's sequence of bus operations.
The spec gives that program no machine form (spec/30_encoding.md R149), so the model lays one bus operation out
as a record of eight bytes (assumption log entry 1, DESIGN CHOICE): a control byte, the 24-bit bus address and
the 32-bit value, both little-endian. What the spec does encode (the `CMD` word of R120 and R121, the stroke
byte of R126, the port numbers of R110, the MMIO ranges and packed offsets of R115 to R117) is read here, once.
-/
namespace Sys2Proof

/-- Why a byte string is no record of a bus operation. -/
inductive DecodeError where
  /-- fewer than eight bytes are left -/
  | truncated
  /-- bit 7 of the control byte is set -/
  | reservedControl
  /-- width code 3 -/
  | reservedWidth
  /-- space code 3 -/
  | reservedSpace
  /-- format code 3 -/
  | reservedFormat
  /-- the address lies outside the space (R88) -/
  | addressOutOfRange
  /-- the value does not fit the width -/
  | valueTooWide
  /-- a read carries a value -/
  | valueOnRead
  /-- a command record is not a 16-bit write at 0x9AE8 -/
  | badCommandRecord
  /-- a stroke record is not a byte write at 0x9EE8 or 0x9EE9 -/
  | badStrokeRecord
  deriving DecidableEq, Repr

/-- One record of a host program, its eight bytes taken apart. -/
structure Record where
  ctrl : Byte
  addr : BitVec 24
  data : Word
  deriving DecidableEq, Repr

/-! ### The `CMD` word (R120, R121) -/

/-- Class of a `CMD` word, bits 15:13. -/
def cmdClass (c : Half) : BitVec 3 := c.extractLsb' 13 3

/-- The fields of a `CMD` word below its class. -/
def cmdOptsOf (c : Half) : CmdOpts where
  swap := c.getLsbD 12
  pat8 := c.getLsbD 11
  bus := c.extractLsb' 9 2
  pcdata := c.getLsbD 8
  incY := c.getLsbD 7
  ymaj := c.getLsbD 6
  incX := c.getLsbD 5
  draw := c.getLsbD 4
  radial := c.getLsbD 3
  lpn := c.getLsbD 2
  rsv := c.getLsbD 1
  wrtdata := c.getLsbD 0

/-- The `CMD` word of a class and its other fields. -/
def cmdWord (cls : BitVec 3) (o : CmdOpts) : Half :=
  cls ++ (BitVec.ofBool o.swap ++ (BitVec.ofBool o.pat8 ++ (o.bus ++ (BitVec.ofBool o.pcdata ++
    (BitVec.ofBool o.incY ++ (BitVec.ofBool o.ymaj ++ (BitVec.ofBool o.incX ++ (BitVec.ofBool o.draw ++
      (BitVec.ofBool o.radial ++ (BitVec.ofBool o.lpn ++
        (BitVec.ofBool o.rsv ++ BitVec.ofBool o.wrtdata)))))))))))

/-- The command row a `CMD` word belongs to (R121, with R120's bits 11, 8, 3 and 0 where a class has several
rows). -/
def cmdInstr (sp : Space) (c : Half) : Instr :=
  let o := cmdOptsOf c
  match (cmdClass c).toNat with
  | 0 => .nop sp o
  | 1 => if o.radial then .lineRadial sp o else .line sp o
  | 2 => if o.pcdata then (if o.wrtdata then .rectCpu sp o else .rectRead sp o) else .rect sp o
  | 3 => if o.pat8 then .polyPat sp o else .polySolid sp o
  | 4 => .ropblt sp o
  | 5 => .polyline sp o
  | 6 => .bitblt sp o
  | _ => .patfill sp o

/-! ### The stroke byte (R126) -/

/-- A stroke byte: direction, draw bit, length. -/
def strokeByte (dir : BitVec 3) (draw : Bool) (len : BitVec 4) : Byte :=
  dir ++ (BitVec.ofBool draw ++ len)

/-- The short-stroke row of a stroke byte. -/
def strokeInstr (sp : Space) (hi : Bool) (b : Byte) : Instr :=
  .ssv sp hi (b.extractLsb' 5 3) (b.getLsbD 4) (b.extractLsb' 0 4)

/-! ### Port and MMIO rows (R110, R115 to R117) -/

/-- The write row of a port register. -/
def outInstr (r : PortReg) (odd : Bool) (w : Width) (v : Word) : Instr :=
  match r with
  | .subsys => .outSubsysCntl odd w v
  | .advfunc => .outAdvfuncCntl odd w v
  | .curY => .outCurY odd w v
  | .curX => .outCurX odd w v
  | .destyAxstp => .outDestyAxstp odd w v
  | .destxDiastp => .outDestxDiastp odd w v
  | .errTerm => .outErrTerm odd w v
  | .majAxisPcnt => .outMajAxisPcnt odd w v
  | .cmd => .outCmd odd w v
  | .shortStroke => .outShortStroke odd w v
  | .bkgdColor => .outBkgdColor odd w v
  | .frgdColor => .outFrgdColor odd w v
  | .wrtMask => .outWrtMask odd w v
  | .rdMask => .outRdMask odd w v
  | .colorCmp => .outColorCmp odd w v
  | .bkgdMix => .outBkgdMix odd w v
  | .frgdMix => .outFrgdMix odd w v
  | .multifunc => .outMultifunc odd w v
  | .curY2 => .outCurY2 odd w v
  | .curX2 => .outCurX2 odd w v
  | .desty2 => .outDesty2 odd w v
  | .destx2 => .outDestx2 odd w v

/-- The read row of a port register. -/
def inInstr (r : PortReg) (odd : Bool) (w : Width) : Instr :=
  match r with
  | .subsys => .inSubsysStat odd w
  | .advfunc => .inAdvfuncCntl odd w
  | .curY => .inCurY odd w
  | .curX => .inCurX odd w
  | .destyAxstp => .inDestyAxstp odd w
  | .destxDiastp => .inDestxDiastp odd w
  | .errTerm => .inErrTerm odd w
  | .majAxisPcnt => .inMajAxisPcnt odd w
  | .cmd => .inGpStat odd w
  | .shortStroke => .inShortStroke odd w
  | .bkgdColor => .inBkgdColor odd w
  | .frgdColor => .inFrgdColor odd w
  | .wrtMask => .inWrtMask odd w
  | .rdMask => .inRdMask odd w
  | .colorCmp => .inColorCmp odd w
  | .bkgdMix => .inBkgdMix odd w
  | .frgdMix => .inFrgdMix odd w
  | .multifunc => .inMultifunc odd w
  | .curY2 => .inCurY2 odd w
  | .curX2 => .inCurX2 odd w
  | .desty2 => .inDesty2 odd w
  | .destx2 => .inDestx2 odd w

/-- The row of an I/O access (R110, R112). -/
def ioInstr (port : BitVec 16) (act : BusAction) : Instr :=
  if isPixPort port.toNat then
    match act with
    | .write w v => .outPixTrans (port.extractLsb' 0 2) w v
    | .read w => .inPixTrans (port.extractLsb' 0 2) w
  else
    match findPort port.toNat with
    | some (r, odd) =>
      match act with
      | .write w v => outInstr r odd w v
      | .read w => inInstr r odd w
    | none => .ioUnmapped port act

/-- The packed write row of a packed register. -/
def packedWriteInstr (k : PackedReg) (win : Window) (v : Word) : Instr :=
  match k with
  | .bkgdColor => .mw32PkBkgdColor win v
  | .frgdColor => .mw32PkFrgdColor win v
  | .wrtMask => .mw32PkWrtMask win v
  | .rdMask => .mw32PkRdMask win v
  | .colorCmp => .mw32PkColorCmp win v
  | .mix => .mw32PkMix win v
  | .scissorsTl => .mw32PkScissorsTl win v
  | .scissorsBr => .mw32PkScissorsBr win v
  | .pixCntlMisc2 => .mw32PkPixCntlMisc2 win v
  | .multMiscRdsel => .mw32PkMultMiscRdsel win v

/-- The packed read row of a packed register. -/
def packedReadInstr (k : PackedReg) (win : Window) : Instr :=
  match k with
  | .bkgdColor => .mr32PkBkgdColor win
  | .frgdColor => .mr32PkFrgdColor win
  | .wrtMask => .mr32PkWrtMask win
  | .rdMask => .mr32PkRdMask win
  | .colorCmp => .mr32PkColorCmp win
  | .mix => .mr32PkMix win
  | .scissorsTl => .mr32PkScissorsTl win
  | .scissorsBr => .mr32PkScissorsBr win
  | .pixCntlMisc2 => .mr32PkPixCntlMisc2 win
  | .multMiscRdsel => .mr32PkMultMiscRdsel win

/-- The row of an access at offsets 0x8000 to 0xFFFF of a window: a packed row for a 32-bit access at an offset
of R117, else the mirror of the port (R115, R116). -/
def mmioRegInstr (win : Window) (off : BitVec 17) (act : BusAction) : Instr :=
  match act, findPacked off.toNat defaultPackedMap with
  | .write .w32 v, some k => packedWriteInstr k win v
  | .read .w32, some k => packedReadInstr k win
  | _, _ => .mmioReg win off act

/-- The row of an MMIO access, by its offset (R115, R116). -/
def mmioInstr (win : Window) (off : BitVec 17) (act : BusAction) : Instr :=
  if off.toNat < 0x8000 then .mmioPixTrans win off act
  else if off.toNat < 0x10000 then mmioRegInstr win off act
  else if off.toNat < 0x18000 then .mmioUnmapped off act
  else .mmioStreams off act

/-! ### The record -/

/-- Width code of the control byte, bits 1:0. -/
def widthOf (ctrl : Byte) : Option Width :=
  match (ctrl.extractLsb' 0 2).toNat with
  | 0 => some .w8
  | 1 => some .w16
  | 2 => some .w32
  | _ => none

/-- Space code of the control byte, bits 4:3. -/
def spaceOf (ctrl : Byte) : Option Space :=
  match (ctrl.extractLsb' 3 2).toNat with
  | 0 => some .io
  | 1 => some .legacyMmio
  | 2 => some .newMmio
  | _ => none

/-- Size of a space in bytes (R88). -/
def spaceSize : Space → Nat
  | .io => 0x10000
  | .legacyMmio => 0x10000
  | .newMmio => 0x20000

/-- What a record's access does: bit 2 of the control byte says read; a read carries no value and a written
value fits its width. -/
def actionOf (r : Record) (w : Width) : Except DecodeError BusAction :=
  if r.ctrl.getLsbD 2 then
    if r.data = 0 then .ok (.read w) else .error .valueOnRead
  else if valueFits w r.data then .ok (.write w r.data)
  else .error .valueTooWide

/-- The row of an access of a space. -/
def accessInstr (sp : Space) (addr : BitVec 24) (act : BusAction) : Instr :=
  match sp with
  | .io => ioInstr (addr.setWidth 16) act
  | .legacyMmio => mmioInstr .legacy (addr.setWidth 17) act
  | .newMmio => mmioInstr .linear (addr.setWidth 17) act

/-- The row of a record of format 0 (a bus access), 1 (a `CMD` word) or 2 (a stroke byte), bits 6:5 of the
control byte. -/
def formatInstr (fmt : Nat) (sp : Space) (addr : BitVec 24) (act : BusAction) : Except DecodeError Instr :=
  match fmt with
  | 0 => if addr.toNat < spaceSize sp then .ok (accessInstr sp addr act) else .error .addressOutOfRange
  | 1 =>
    match act with
    | .write .w16 v => if addr = 0x9AE8 then .ok (cmdInstr sp (v.setWidth 16)) else .error .badCommandRecord
    | _ => .error .badCommandRecord
  | 2 =>
    match act with
    | .write .w8 v =>
      if addr = 0x9EE8 then .ok (strokeInstr sp false (v.setWidth 8))
      else if addr = 0x9EE9 then .ok (strokeInstr sp true (v.setWidth 8))
      else .error .badStrokeRecord
    | _ => .error .badStrokeRecord
  | _ => .error .reservedFormat

/-- Decode one record: total, every rejection by name. -/
def decodeRecord (r : Record) : Except DecodeError Instr :=
  if r.ctrl.getLsbD 7 then .error .reservedControl
  else
    match widthOf r.ctrl with
    | none => .error .reservedWidth
    | some w =>
      match spaceOf r.ctrl with
      | none => .error .reservedSpace
      | some sp =>
        match actionOf r w with
        | .error e => .error e
        | .ok act => formatInstr (r.ctrl.extractLsb' 5 2).toNat sp r.addr act

/-- Decode the first bus operation of a host program: the operation and the bytes after it. -/
def decode : List Byte → Except DecodeError (Instr × List Byte)
  | b0 :: b1 :: b2 :: b3 :: b4 :: b5 :: b6 :: b7 :: rest =>
    match decodeRecord ⟨b0, b3 ++ (b2 ++ b1), b7 ++ (b6 ++ (b5 ++ b4))⟩ with
    | .ok i => .ok (i, rest)
    | .error e => .error e
  | _ => .error .truncated

/-! ### The encoder -/

/-- Code of a width in the control byte. -/
def widthCode : Width → BitVec 2
  | .w8 => 0
  | .w16 => 1
  | .w32 => 2

/-- Code of a space in the control byte. -/
def spaceCode : Space → BitVec 2
  | .io => 0
  | .legacyMmio => 1
  | .newMmio => 2

/-- Space of a window. -/
def Window.space : Window → Space
  | .legacy => .legacyMmio
  | .linear => .newMmio

/-- A control byte. -/
def ctrlByte (fmt : BitVec 2) (sp : Space) (rd : Bool) (w : Width) : Byte :=
  (0 : BitVec 1) ++ (fmt ++ (spaceCode sp ++ (BitVec.ofBool rd ++ widthCode w)))

/-- The record of an access. -/
def accessRecord (sp : Space) (addr : Nat) (act : BusAction) : Record :=
  match act with
  | .write w v => ⟨ctrlByte 0 sp false w, BitVec.ofNat 24 addr, v⟩
  | .read w => ⟨ctrlByte 0 sp true w, BitVec.ofNat 24 addr, 0⟩

/-- The record of a command. -/
def cmdRecord (sp : Space) (c : Half) : Record := ⟨ctrlByte 1 sp false .w16, 0x9AE8, c.setWidth 32⟩

/-- The record of a stroke byte. -/
def strokeRecord (sp : Space) (hi : Bool) (b : Byte) : Record :=
  ⟨ctrlByte 2 sp false .w8, if hi then 0x9EE9 else 0x9EE8, b.setWidth 32⟩

/-- Port of a register's low or high byte. -/
def portAddr (r : PortReg) (odd : Bool) : Nat := portOf r + odd.toNat

/-- Record of a port write. -/
def outRecord (r : PortReg) (odd : Bool) (w : Width) (v : Word) : Record :=
  accessRecord .io (portAddr r odd) (.write w v)

/-- Record of a port read. -/
def inRecord (r : PortReg) (odd : Bool) (w : Width) : Record :=
  accessRecord .io (portAddr r odd) (.read w)

/-- The record of a bus operation. -/
def encodeRecord : Instr → Record
  | .nop sp o => cmdRecord sp (cmdWord 0 o)
  | .line sp o => cmdRecord sp (cmdWord 1 o)
  | .lineRadial sp o => cmdRecord sp (cmdWord 1 o)
  | .rect sp o => cmdRecord sp (cmdWord 2 o)
  | .rectCpu sp o => cmdRecord sp (cmdWord 2 o)
  | .rectRead sp o => cmdRecord sp (cmdWord 2 o)
  | .polySolid sp o => cmdRecord sp (cmdWord 3 o)
  | .polyPat sp o => cmdRecord sp (cmdWord 3 o)
  | .ropblt sp o => cmdRecord sp (cmdWord 4 o)
  | .polyline sp o => cmdRecord sp (cmdWord 5 o)
  | .bitblt sp o => cmdRecord sp (cmdWord 6 o)
  | .patfill sp o => cmdRecord sp (cmdWord 7 o)
  | .ssv sp hi dir draw len => strokeRecord sp hi (strokeByte dir draw len)
  | .outSubsysCntl odd w v => outRecord .subsys odd w v
  | .inSubsysStat odd w => inRecord .subsys odd w
  | .outAdvfuncCntl odd w v => outRecord .advfunc odd w v
  | .inAdvfuncCntl odd w => inRecord .advfunc odd w
  | .outCurY odd w v => outRecord .curY odd w v
  | .inCurY odd w => inRecord .curY odd w
  | .outCurX odd w v => outRecord .curX odd w v
  | .inCurX odd w => inRecord .curX odd w
  | .outDestyAxstp odd w v => outRecord .destyAxstp odd w v
  | .inDestyAxstp odd w => inRecord .destyAxstp odd w
  | .outDestxDiastp odd w v => outRecord .destxDiastp odd w v
  | .inDestxDiastp odd w => inRecord .destxDiastp odd w
  | .outErrTerm odd w v => outRecord .errTerm odd w v
  | .inErrTerm odd w => inRecord .errTerm odd w
  | .outMajAxisPcnt odd w v => outRecord .majAxisPcnt odd w v
  | .inMajAxisPcnt odd w => inRecord .majAxisPcnt odd w
  | .outCmd odd w v => outRecord .cmd odd w v
  | .inGpStat odd w => inRecord .cmd odd w
  | .outShortStroke odd w v => outRecord .shortStroke odd w v
  | .inShortStroke odd w => inRecord .shortStroke odd w
  | .outBkgdColor odd w v => outRecord .bkgdColor odd w v
  | .inBkgdColor odd w => inRecord .bkgdColor odd w
  | .outFrgdColor odd w v => outRecord .frgdColor odd w v
  | .inFrgdColor odd w => inRecord .frgdColor odd w
  | .outWrtMask odd w v => outRecord .wrtMask odd w v
  | .inWrtMask odd w => inRecord .wrtMask odd w
  | .outRdMask odd w v => outRecord .rdMask odd w v
  | .inRdMask odd w => inRecord .rdMask odd w
  | .outColorCmp odd w v => outRecord .colorCmp odd w v
  | .inColorCmp odd w => inRecord .colorCmp odd w
  | .outBkgdMix odd w v => outRecord .bkgdMix odd w v
  | .inBkgdMix odd w => inRecord .bkgdMix odd w
  | .outFrgdMix odd w v => outRecord .frgdMix odd w v
  | .inFrgdMix odd w => inRecord .frgdMix odd w
  | .outMultifunc odd w v => outRecord .multifunc odd w v
  | .inMultifunc odd w => inRecord .multifunc odd w
  | .outPixTrans lane w v => accessRecord .io (pixPortLo + lane.toNat) (.write w v)
  | .inPixTrans lane w => accessRecord .io (pixPortLo + lane.toNat) (.read w)
  | .outCurY2 odd w v => outRecord .curY2 odd w v
  | .inCurY2 odd w => inRecord .curY2 odd w
  | .outCurX2 odd w v => outRecord .curX2 odd w v
  | .inCurX2 odd w => inRecord .curX2 odd w
  | .outDesty2 odd w v => outRecord .desty2 odd w v
  | .inDesty2 odd w => inRecord .desty2 odd w
  | .outDestx2 odd w v => outRecord .destx2 odd w v
  | .inDestx2 odd w => inRecord .destx2 odd w
  | .ioUnmapped port act => accessRecord .io port.toNat act
  | .mmioPixTrans win off act => accessRecord win.space off.toNat act
  | .mmioReg win off act => accessRecord win.space off.toNat act
  | .mw32PkBkgdColor win v => accessRecord win.space (packedOffset .bkgdColor) (.write .w32 v)
  | .mr32PkBkgdColor win => accessRecord win.space (packedOffset .bkgdColor) (.read .w32)
  | .mw32PkFrgdColor win v => accessRecord win.space (packedOffset .frgdColor) (.write .w32 v)
  | .mr32PkFrgdColor win => accessRecord win.space (packedOffset .frgdColor) (.read .w32)
  | .mw32PkWrtMask win v => accessRecord win.space (packedOffset .wrtMask) (.write .w32 v)
  | .mr32PkWrtMask win => accessRecord win.space (packedOffset .wrtMask) (.read .w32)
  | .mw32PkRdMask win v => accessRecord win.space (packedOffset .rdMask) (.write .w32 v)
  | .mr32PkRdMask win => accessRecord win.space (packedOffset .rdMask) (.read .w32)
  | .mw32PkColorCmp win v => accessRecord win.space (packedOffset .colorCmp) (.write .w32 v)
  | .mr32PkColorCmp win => accessRecord win.space (packedOffset .colorCmp) (.read .w32)
  | .mw32PkMix win v => accessRecord win.space (packedOffset .mix) (.write .w32 v)
  | .mr32PkMix win => accessRecord win.space (packedOffset .mix) (.read .w32)
  | .mw32PkScissorsTl win v => accessRecord win.space (packedOffset .scissorsTl) (.write .w32 v)
  | .mr32PkScissorsTl win => accessRecord win.space (packedOffset .scissorsTl) (.read .w32)
  | .mw32PkScissorsBr win v => accessRecord win.space (packedOffset .scissorsBr) (.write .w32 v)
  | .mr32PkScissorsBr win => accessRecord win.space (packedOffset .scissorsBr) (.read .w32)
  | .mw32PkPixCntlMisc2 win v => accessRecord win.space (packedOffset .pixCntlMisc2) (.write .w32 v)
  | .mr32PkPixCntlMisc2 win => accessRecord win.space (packedOffset .pixCntlMisc2) (.read .w32)
  | .mw32PkMultMiscRdsel win v => accessRecord win.space (packedOffset .multMiscRdsel) (.write .w32 v)
  | .mr32PkMultMiscRdsel win => accessRecord win.space (packedOffset .multMiscRdsel) (.read .w32)
  | .mmioUnmapped off act => accessRecord .newMmio off.toNat act
  | .mmioStreams off act => accessRecord .newMmio off.toNat act

/-- The eight bytes of a record. -/
def recordBytes (r : Record) : List Byte :=
  [r.ctrl, r.addr.extractLsb' 0 8, r.addr.extractLsb' 8 8, r.addr.extractLsb' 16 8,
   r.data.extractLsb' 0 8, r.data.extractLsb' 8 8, r.data.extractLsb' 16 8, r.data.extractLsb' 24 8]

/-- The bytes of a bus operation in a host program. -/
def encode (i : Instr) : List Byte := recordBytes (encodeRecord i)

/-! ### The rows of the opcode table (assumption log entry 28) -/

/-- The record of a table row: `w` holds the `nbits` bits the table gives the row, every other operand is 0.
The table's rows are of four forms, told apart by their length: nothing (`IO_UNMAPPED`), a stroke byte, 16 bits
(a port number of R110, else a `CMD` word), an MMIO offset of 17 bits (in the legacy window where it reaches
that far, 32 bits wide at a packed offset). A longer word is a whole record. -/
def tableRecord (nbits w : Nat) : Record :=
  if nbits = 0 then accessRecord .io 0 (.write .w8 0)
  else if nbits ≤ 8 then strokeRecord .io false (BitVec.ofNat 8 w)
  else if nbits ≤ 16 then
    if isPort (w % 2 ^ 16) then accessRecord .io (w % 2 ^ 16) (.write .w8 0)
    else cmdRecord .io (BitVec.ofNat 16 w)
  else if nbits ≤ 24 then
    accessRecord (if w % 2 ^ 24 < 0x10000 then .legacyMmio else .newMmio) (w % 2 ^ 24)
      (.write (if (findPacked (w % 2 ^ 24) defaultPackedMap).isSome then .w32 else .w8) 0)
  else ⟨BitVec.ofNat 8 w, BitVec.ofNat 24 (w / 2 ^ 8), BitVec.ofNat 32 (w / 2 ^ 32)⟩

/-- The instruction the decoder reads from a table row's bits. -/
def decodeTableWord (nbits w : Nat) : Option Instr :=
  match decode (recordBytes (tableRecord nbits w)) with
  | .ok (i, _) => some i
  | .error _ => none

end Sys2Proof
end

