-- ==== Sys2Proof/Machine/State.lean ====
section
/-!
DEFINITION. The state of the drawing engine (spec/10_state.md), the host side that drives it, and the machine
right after reset. INVENTORY.md lists every field with the rule that names it.
-/
namespace Sys2Proof.Machine

/-- The odd and even byte arrays of one colour or mask register on byte-doubling chips (R44). -/
structure ByteLanes where
  even0 : Byte
  even1 : Byte
  odd0 : Byte
  odd1 : Byte
  deriving DecidableEq, Repr

/-- The register file (R30 to R53). -/
structure Regs where
  curX : Word
  curY : Word
  curX2 : Word
  curY2 : Word
  destxDiastp : Word
  destyAxstp : Word
  destx2 : Word
  desty2 : Word
  errTerm : Word
  majAxisPcnt : BitVec 12
  bkgdColor : Word
  frgdColor : Word
  wrtMask : Word
  rdMask : Word
  colorCmp : Word
  bkgdLanes : ByteLanes
  frgdLanes : ByteLanes
  wrtLanes : ByteLanes
  rdLanes : ByteLanes
  cmpLanes : ByteLanes
  bkgdMix : Half
  frgdMix : Half
  cmd : Half
  shortStroke : Half
  multifunc : Vector (BitVec 12) 16
  mfLatch : Byte
  pixTrans : Vector Byte 4
  advfunc : Half
  subsysStat : BitVec 4
  subsysEn : BitVec 4
  deriving DecidableEq, Repr

/-- The engine working state (R55, with the values R255, R265 and R286 latch). -/
structure Eng where
  active : Bool
  cls : BitVec 3
  cmd : Half
  cx : Int
  cy : Int
  sx : Int
  sy : Int
  err : Int
  ax : Int
  dia : Int
  srcx : Int
  srcy : Int
  x0 : Int
  srcx0 : Int
  w : Int
  patx : Int
  paty : Int
  fx1 : Int
  fx2 : Int
  dfx1 : Int
  dfx2 : Int
  plX : Int
  plY : Int
  plX1 : Int
  plY1 : Int
  plDx : Int
  plDy : Int
  plSx : Int
  plSy : Int
  plErr : Int
  cpuBits : List Bool
  cpuPix : List Word
  phase16 : Bool
  rb : List Byte
  rbEnded : Bool
  pixCount : BitVec 2
  dataAvailable : Bool
  deriving DecidableEq, Repr

/-- One FIFO entry (R61): type tag in bits 31:24 of `addrType`, address in bits 23:0. `packed` is the kind the tag
`WRITE_DWORD` leaves open (R145: packed or pixel transfer), as the host decoded the write (assumption log entry 21). -/
structure FifoEntry where
  addrType : Word
  val : Word
  packed : Bool
  deriving DecidableEq, Repr

/-- The FIFO (R60, R62). The ring is held as the list of slots written so far, slots strictly rising; a slot
not listed holds `Config.ringPowerOn`. -/
structure Fifo where
  ring : List (Nat × FifoEntry)
  readIdx : Word
  writeIdx : Word
  busy : Bool
  deriving DecidableEq, Repr

/-- The input signals (R89, R115, R190). -/
structure Inputs where
  fifoMode : Bool
  ioEnabled : Bool
  legacyMmioEnabled : Bool
  newMmioEnabled : Bool
  packedMmioMode : Bool
  deriving DecidableEq, Repr

/-- Which part of a 16-bit register a bus access reaches (R84). -/
inductive RegPart where
  | lo
  | hi
  | word
  deriving DecidableEq, Repr

/-- What a part of a bus access reaches. -/
inductive Target where
  /-- a part of a 16-bit register -/
  | reg (r : PortReg) (part : RegPart)
  /-- a packed register -/
  | packed (k : PackedReg)
  /-- the pixel-transfer port; `lane` is the address modulo 4 (R175) -/
  | pix (lane : Nat)
  /-- nothing: open bus (R112) -/
  | unmapped
  /-- the streams engine (R92) -/
  | streams
  deriving DecidableEq, Repr

/-- What the host waits for before it performs a bus operation. -/
inductive Route where
  /-- a write into the FIFO, performed once there is room (R192) -/
  | queued
  /-- a direct write, or a read in FIFO mode, performed once the FIFO is drained (R102, R103) -/
  | drained
  /-- nothing: a read outside FIFO mode, and what reaches no register (R112, R170) -/
  | atOnce
  deriving DecidableEq, Repr

/-- What the host has decided of a bus operation: what its address reaches and how it is performed. The decision is
made once, at the access (R102, R190), and a held operation keeps it (assumption log entry 34). -/
structure Decision where
  target : Target
  route : Route
  deriving DecidableEq, Repr

/-- One part of a host access, itself one bus operation (spec/20_memory.md R86, R95): `lane` is its byte offset
in the whole access, whose width is `whole`; the last part completes a read. `decided` is what the host decided of
it when it came to it, `none` before. -/
structure Part where
  space : Space
  addr : Nat
  act : BusAction
  lane : Nat
  whole : Width
  last : Bool
  decided : Option Decision
  deriving DecidableEq, Repr

/-- A turn of the environment: an agent's step, the device reset or new input signals (R16, R450, R190). -/
inductive Turn where
  | host
  | engine
  | deviceReset
  | signals (i : Inputs)
  deriving DecidableEq, Repr

/-- The events of the model's history: the notify of R91, and the value a host read returned. -/
inductive Event where
  | recalc
  | readReturned (w : Width) (v : Word)
  deriving DecidableEq, Repr

/-- The host side (MODEL's own; assumption log entries 1, 3, 24): the bus operations still to be issued, the
parts of the access under way, the bytes a split read has gathered, the turns chosen by the environment, and
the event history, newest first. -/
structure HostSide where
  program : List Byte
  pending : List Part
  acc : Word
  sched : List Turn
  history : List Event
  deriving DecidableEq, Repr

/-- VRAM: address and byte pairs, addresses strictly rising, no byte equal to what an unlisted address reads
as (R66, R80). -/
abbrev Memory := List Host.Cell

/-- The whole machine. `cfg` is the session's configuration (R65), `draws` counts the free values drawn. -/
structure State where
  cfg : Config
  inputs : Inputs
  regs : Regs
  eng : Eng
  fifo : Fifo
  vram : Memory
  host : HostSide
  draws : Nat
  deriving DecidableEq, Repr

/-- The reasons a step can fault. The block itself raises no exception (spec/60_exceptions.md R400). -/
inductive Fault where
  /-- Raised by `step` alone, when the bytes at the head of the host program are no record of a bus operation
  (assumption log entry 1). Safe: the hardware has no counterpart, and the machine stops. -/
  | malformedRecord (e : DecodeError)
  deriving DecidableEq, Repr

/-- The reasons a step can be refused: what the spec itself gives no meaning to (R404), and an instruction
without a meaning. -/
inductive Refusal where
  /-- Raised by `exec` alone, for an instruction that has no meaning yet. Safe. -/
  | notModelled (mnemonic : String)
  /-- Raised by a command or stroke that draws on a byte-doubling chip at 16 bpp (spec/00_scope.md R27).
  Safe: the spec gives no effect. -/
  | byteDoubling16bpp
  /-- Raised by a command that selects the packed 32 bpp sub-mode on a chip that has it (R28). Safe. -/
  | packed32SubMode
  /-- Raised by a command, or by data fed to one, that takes CPU pixel data at 24 bpp or with a bus unit
  narrower than a pixel (R29, spec/42_pixel_pipeline.md R242). Safe. -/
  | cpuPixelPacking
  /-- Raised by an access to the new MMIO window at 0x18000 or above that reaches the block: it belongs to the
  streams engine, whose effect the spec does not give (spec/20_memory.md R92). Safe. -/
  | streamsEngine
  deriving DecidableEq, Repr

/-- Byte-doubling arrays after reset (R450). -/
def ByteLanes.reset : ByteLanes := ⟨0, 0, 0, 0⟩

/-- The register file after reset: every register 0 (R68, R450). -/
def Regs.reset : Regs where
  curX := 0
  curY := 0
  curX2 := 0
  curY2 := 0
  destxDiastp := 0
  destyAxstp := 0
  destx2 := 0
  desty2 := 0
  errTerm := 0
  majAxisPcnt := 0
  bkgdColor := 0
  frgdColor := 0
  wrtMask := 0
  rdMask := 0
  colorCmp := 0
  bkgdLanes := .reset
  frgdLanes := .reset
  wrtLanes := .reset
  rdLanes := .reset
  cmpLanes := .reset
  bkgdMix := 0
  frgdMix := 0
  cmd := 0
  shortStroke := 0
  multifunc := Vector.replicate 16 0
  mfLatch := 0
  pixTrans := Vector.replicate 4 0
  advfunc := 0
  subsysStat := 0
  subsysEn := 0

/-- The working state after reset: not active, every other field 0 or empty (R55, R450). -/
def Eng.reset : Eng where
  active := false
  cls := 0
  cmd := 0
  cx := 0
  cy := 0
  sx := 0
  sy := 0
  err := 0
  ax := 0
  dia := 0
  srcx := 0
  srcy := 0
  x0 := 0
  srcx0 := 0
  w := 0
  patx := 0
  paty := 0
  fx1 := 0
  fx2 := 0
  dfx1 := 0
  dfx2 := 0
  plX := 0
  plY := 0
  plX1 := 0
  plY1 := 0
  plDx := 0
  plDy := 0
  plSx := 0
  plSy := 0
  plErr := 0
  cpuBits := []
  cpuPix := []
  phase16 := false
  rb := []
  rbEnded := false
  pixCount := 0
  dataAvailable := false

/-- The FIFO after reset: empty, not busy, its slots holding nothing in particular (R60, R202). -/
def Fifo.reset : Fifo where
  ring := []
  readIdx := 0
  writeIdx := 0
  busy := false

/-- The capability table of the session `State.reset` stands for: what R20's own words say of the Vision968
(assumption log entry 4, DESIGN CHOICE). -/
def vision968Cap : Cap where
  hasPackedMmio := true
  hasLegacyMmio := true
  hasNewMmio := false
  hasPolyline := true
  hasRopblt := true
  hasPolygon := true
  byteDoubling := false
  hasPacked32 := true
  fifoCapable := true
  fifoAlwaysOn := false

/-- The session `State.reset` stands for: the conventions of spec/95_test_vectors.md (entry 4, DESIGN CHOICE). -/
def sessionConfig : Config where
  cap := vision968Cap
  depth := .bpp8
  color16 := false
  pitch := 16
  vramBits := 22
  destBase := 0
  srcBase := 0
  remap := .identity
  coordMod := .m4096
  linearBase := 0
  lpnHonoured := false
  aliases := []
  packedMap := defaultPackedMap
  ropSource := .mixNibbles

/-- The input signals of that session (entry 5, DESIGN CHOICE): every window decoded, FIFO mode off. -/
def Inputs.session : Inputs where
  fifoMode := false
  ioEnabled := true
  legacyMmioEnabled := true
  newMmioEnabled := true
  packedMmioMode := true

/-- The host side before the first bus operation: no program, nothing under way (entry 2). -/
def HostSide.idle : HostSide where
  program := []
  pending := []
  acc := 0
  sched := []
  history := []

/-- The machine right after reset (R450), in the session of entries 4 and 5, with VRAM as at power-on
(entry 7). -/
def State.reset : State where
  cfg := sessionConfig
  inputs := Inputs.session
  regs := Regs.reset
  eng := Eng.reset
  fifo := Fifo.reset
  vram := []
  host := HostSide.idle
  draws := 0

end Sys2Proof.Machine
end

