-- ==== Sys2Proof/Machine/Ops.lean ====
section
/-!
DEFINITION. The named operations over memory, registers and the FIFO that every meaning is written with, the
raising of an interrupt status bit (the block takes no exception: spec/60_exceptions.md R400, R410; its one
event is R405), and the device reset (R450).
-/
namespace Sys2Proof.Machine

/-- What one step answers. -/
abbrev Result := Host.Outcome State Fault Refusal

/-- Go on with `f` where the first operation answers a next state. -/
def thenNext (o : Result) (f : State → Result) : Result :=
  match o with
  | .next s => f s
  | .fault r => .fault r
  | .refused r => .refused r

/-! ### VRAM -/

/-- What a byte of VRAM that nothing has written reads as (assumption log entry 7, DESIGN CHOICE). -/
def unwrittenByte : Byte := 0

/-- Read one byte. -/
def Memory.read : Memory → Nat → Byte
  | [], _ => unwrittenByte
  | (k, b) :: rest, a => if k = a then b else Memory.read rest a

/-- Write one byte, keeping the canonical form: addresses strictly rising, no entry equal to what an unlisted
address reads as. -/
def Memory.write : Memory → Nat → Byte → Memory
  | [], a, v => if v = unwrittenByte then [] else [(a, v)]
  | (k, b) :: rest, a, v =>
    if a < k then (if v = unwrittenByte then (k, b) :: rest else (a, v) :: (k, b) :: rest)
    else if a = k then (if v = unwrittenByte then rest else (a, v) :: rest)
    else (k, b) :: Memory.write rest a v

/-- The canonical form of VRAM. -/
def Memory.wf : Memory → Bool
  | [] => true
  | (k, b) :: rest => decide (b ≠ unwrittenByte) && rest.all (fun c => decide (k < c.1)) && Memory.wf rest

/-- Every listed address lies below a bound. -/
def Memory.below (n : Nat) (m : Memory) : Bool := m.all fun c => decide (c.1 < n)

/-- Bytes per pixel (R10). -/
def pixelBytes : Depth → Nat
  | .bpp8 => 1
  | .bpp15 => 2
  | .bpp16 => 2
  | .bpp24 => 3
  | .bpp32 => 4

/-- `PMASK = 2^PBITS - 1` (R10). -/
def pixelMask : Depth → Word
  | .bpp8 => 0xFF
  | .bpp15 => 0xFFFF
  | .bpp16 => 0xFFFF
  | .bpp24 => 0xFFFFFF
  | .bpp32 => 0xFFFFFFFF

/-- The remap function of the session (R90). -/
def remapIndex (cfg : Config) (i : Nat) : Nat :=
  match cfg.remap with
  | .identity => i
  | .chip mode => Config.chipRemap mode i

/-- `ByteAddr(i, k)`: byte `k` of pixel `i` (R81). -/
def byteAddr (cfg : Config) (i k : Nat) : Nat :=
  (remapIndex cfg i * pixelBytes cfg.depth + k) % 2 ^ cfg.vramBits

/-- `PixAddr(base, x, y)`: the index of a pixel of a surface (R81). -/
def pixAddr (cfg : Config) (base x y : Nat) : Nat := base + y * cfg.pitch + x

/-- The bytes of a pixel from byte `k` on, `n` of them, as a number (R82). -/
def readPixelFrom (cfg : Config) (m : Memory) (i k : Nat) : Nat → Word
  | 0 => 0
  | n + 1 =>
    ((Memory.read m (byteAddr cfg i k)).setWidth 32 <<< (8 * k)) ||| readPixelFrom cfg m i (k + 1) n

/-- `ReadPixel(i)`, little-endian (R82). -/
def readPixel (cfg : Config) (m : Memory) (i : Nat) : Word := readPixelFrom cfg m i 0 (pixelBytes cfg.depth)

/-- Write `n` bytes of a pixel value, from byte `k` on, in increasing order (R82). -/
def writePixelFrom (cfg : Config) (m : Memory) (i : Nat) (v : Word) (k : Nat) : Nat → Memory
  | 0 => m
  | n + 1 => writePixelFrom cfg (Memory.write m (byteAddr cfg i k) (v.extractLsb' (8 * k) 8)) i v (k + 1) n

/-- `WritePixel(i, v)` (R82). -/
def writePixel (cfg : Config) (m : Memory) (i : Nat) (v : Word) : Memory :=
  writePixelFrom cfg m i v 0 (pixelBytes cfg.depth)

/-! ### Register fields -/

/-- Replace the byte of a word at bit `h`. -/
def setByteAt (r : Word) (h : Nat) (b : Byte) : Word :=
  (r &&& ~~~((0xFF : Word) <<< h)) ||| (b.setWidth 32 <<< h)

/-- Replace the 16 bits of a word at bit `h`. -/
def setHalfAt (r : Word) (h : Nat) (v : Half) : Word :=
  (r &&& ~~~((0xFFFF : Word) <<< h)) ||| (v.setWidth 32 <<< h)

/-- Write a part of a coordinate-like register: the low byte alone, or the completing high byte with its
14-bit sign extension (R32, R151). -/
def writeCoord (part : RegPart) (v r : Word) : Word :=
  match part with
  | .lo => setByteAt r 0 (v.setWidth 8)
  | .hi => (v.extractLsb' 0 6 ++ r.extractLsb' 0 8).signExtend 32
  | .word => (v.extractLsb' 0 14).signExtend 32

/-- Write a part of a 12-bit count (R34, R152). -/
def writeCount (part : RegPart) (v : Word) (r : BitVec 12) : BitVec 12 :=
  match part with
  | .lo => r.extractLsb' 8 4 ++ v.extractLsb' 0 8
  | .hi => v.extractLsb' 0 4 ++ r.extractLsb' 0 8
  | .word => v.extractLsb' 0 12

/-- Write a part of a 16-bit register, byte lanes as R158. -/
def writeHalf (part : RegPart) (v : Word) (r : Half) : Half :=
  match part with
  | .lo => r.extractLsb' 8 8 ++ v.extractLsb' 0 8
  | .hi => v.extractLsb' 0 8 ++ r.extractLsb' 0 8
  | .word => v.extractLsb' 0 16

/-- Write a part of a colour or mask register whose lanes start at bit `h` (R156). -/
def writeColorPart (part : RegPart) (h : Nat) (v r : Word) : Word :=
  match part with
  | .lo => setByteAt r h (v.setWidth 8)
  | .hi => setByteAt r (h + 8) (v.setWidth 8)
  | .word => setHalfAt r h (v.setWidth 16)

/-- Read a part of a 16-bit value (R171). -/
def readPart (part : RegPart) (v : Half) : Word :=
  match part with
  | .lo => (v.extractLsb' 0 8).setWidth 32
  | .hi => (v.extractLsb' 8 8).setWidth 32
  | .word => v.setWidth 32

/-- Entry of the multifunction file (R47). -/
def Regs.mf (r : Regs) (i : BitVec 4) : BitVec 12 := r.multifunc[i.toNat]'i.isLt

/-- Store an entry of the multifunction file (R47). -/
def Regs.setMf (r : Regs) (i : BitVec 4) (v : BitVec 12) : Regs :=
  { r with multifunc := r.multifunc.set i.toNat v i.isLt }

/-- `MULT_MISC` (R132). -/
def Regs.multMisc (r : Regs) : BitVec 12 := r.mf 0xE

/-- `PIX_CNTL` (R131). -/
def Regs.pixCntl (r : Regs) : BitVec 12 := r.mf 0xA

/-- The bit at which 16-bit accesses to a colour or mask register start: 16 while `MULT_MISC[4]` is 1 (R156). -/
def Regs.colorShift (r : Regs) : Nat := if r.multMisc.getLsbD 4 then 16 else 0

/-! ### Coordinates (R33) -/

/-- The coordinate modulus. -/
def coordModulus : CoordMod → Nat
  | .m4096 => 4096
  | .m2048 => 2048

/-- `coord(R)`: a register as a position (R33). -/
def coord (cfg : Config) (r : Word) : Nat := r.toNat % coordModulus cfg.coordMod

/-- An integer position reduced to a coordinate (R210). -/
def reduce (cfg : Config) (x : Int) : Nat := (x % (coordModulus cfg.coordMod : Int)).toNat

/-- The value a `Finish` stores for a position (R248). -/
def storePos (cfg : Config) (x : Int) : Word := BitVec.ofNat 32 (reduce cfg x)

/-- The value a `Finish` stores for an error term (R248). -/
def storeErr (e : Int) : Word := BitVec.ofInt 32 e

/-! ### Interrupt status (R405) -/

/-- Bit number of `GE_DONE` (R51). -/
def geDone : Nat := 1

/-- Bit number of `FIFO_EMPTY` (R51). -/
def fifoEmpty : Nat := 3

/-- `raise Irq(b)`: set a status bit; a bit already set stays set (R405). -/
def raiseIrq (b : Nat) (s : State) : State :=
  { s with regs := { s.regs with subsysStat := s.regs.subsysStat ||| (1#4 <<< b) } }

/-! ### FIFO (R60, R190 to R193) -/

/-- `enable_fifo()` (R190). -/
def State.enableFifo (s : State) : Bool :=
  s.cfg.cap.fifoCapable && (s.cfg.cap.fifoAlwaysOn || s.inputs.fifoMode)

/-- `FIFO_ENTRIES` (R193). -/
def Fifo.entries (f : Fifo) : Nat := (f.writeIdx - f.readIdx).toNat

/-- The queue is full (R193). -/
def Fifo.full (f : Fifo) : Bool := decide (Config.fifoSize - Config.fifoHeadroom ≤ f.entries)

/-- `FIFO_ENTRIES = 0 and fifo.busy = 0`, what the holds of R102 and R103 wait for. -/
def Fifo.drained (f : Fifo) : Bool := decide (f.entries = 0) && !f.busy

/-- The ring slot of a counter value (R60). -/
def slotOf (i : Word) : Nat := i.toNat % Config.fifoSize

/-- Read a ring slot. -/
def readSlot : List (Nat × FifoEntry) → Nat → FifoEntry
  | [], a => ⟨(Config.ringPowerOn a).1, (Config.ringPowerOn a).2.1, (Config.ringPowerOn a).2.2⟩
  | (k, e) :: rest, a => if k = a then e else readSlot rest a

/-- Write a ring slot, keeping the slots strictly rising. -/
def writeSlot : List (Nat × FifoEntry) → Nat → FifoEntry → List (Nat × FifoEntry)
  | [], a, e => [(a, e)]
  | (k, x) :: rest, a, e =>
    if a < k then (a, e) :: (k, x) :: rest
    else if a = k then (a, e) :: rest
    else (k, x) :: writeSlot rest a e

/-- The slots of the ring are strictly rising and inside the ring. -/
def ringWf : List (Nat × FifoEntry) → Bool
  | [] => true
  | (k, _) :: rest => decide (k < Config.fifoSize) && rest.all (fun c => decide (k < c.1)) && ringWf rest

/-- Put one entry into the ring and count it (R192). -/
def Fifo.push (f : Fifo) (e : FifoEntry) : Fifo :=
  { f with ring := writeSlot f.ring (slotOf f.writeIdx) e, writeIdx := f.writeIdx + 1 }

/-- The entry at the head of the queue (R194). -/
def Fifo.head (f : Fifo) : FifoEntry := readSlot f.ring (slotOf f.readIdx)

/-- The entries of the queue from counter value `i` on, `n` of them. -/
def queueFrom (ring : List (Nat × FifoEntry)) (i : Word) : Nat → List FifoEntry
  | 0 => []
  | n + 1 => readSlot ring (slotOf i) :: queueFrom ring (i + 1) n

/-- The queued writes not yet dispatched, in order (R200). -/
def Fifo.queue (f : Fifo) : List FifoEntry := queueFrom f.ring f.readIdx f.entries

/-! ### Device reset (R450) -/

/-- A part about which nothing is decided: the host comes to it anew. -/
def Part.undecided (p : Part) : Part := { p with decided := none }

/-- The host side after a device reset: a held access is abandoned (R450). An access that is not held goes on, and
what was decided of its parts is decided anew, so that after the reset every write is direct until software sets
`ADVFUNC_CNTL[0]` (R451; assumption log entry 25). -/
def dropHeld (held : Bool) (h : HostSide) : HostSide :=
  { h with pending := if held then [] else h.pending.map Part.undecided }

/-- The device reset: the registers, the working state and the FIFO as after power-on, a held host access
abandoned; VRAM, the session and the input signals unchanged (R450). -/
def deviceReset (held : Bool) (s : State) : State :=
  { s with regs := Regs.reset, eng := Eng.reset, fifo := Fifo.reset, host := dropHeld held s.host }

end Sys2Proof.Machine
end

