-- ==== Sys2Proof/Machine/Operands.lean ====
section
/-!
DEFINITION. The operand forms: the fields of the `CMD` word, of the mix registers and of the multifunction
registers (spec/30_encoding.md R120 to R132), and how a bus address and width select a register (R110 to R117,
spec/20_memory.md R86 to R89).
-/
namespace Sys2Proof.Machine

/-! ### Fields of the `CMD` word (R120 to R124) -/

/-- `SWAP`, bit 12. -/
def cmdSwap (c : Half) : Bool := c.getLsbD 12
/-- `PAT8`, bit 11. -/
def cmdPat8 (c : Half) : Bool := c.getLsbD 11
/-- `BUS`, bits 10:9. -/
def cmdBus (c : Half) : BitVec 2 := c.extractLsb' 9 2
/-- `PCDATA`, bit 8. -/
def cmdPcdata (c : Half) : Bool := c.getLsbD 8
/-- `YMAJ`, bit 6. -/
def cmdYmaj (c : Half) : Bool := c.getLsbD 6
/-- `DRAW`, bit 4. -/
def cmdDraw (c : Half) : Bool := c.getLsbD 4
/-- `RADIAL`, bit 3. -/
def cmdRadial (c : Half) : Bool := c.getLsbD 3
/-- `LPN`, bit 2. -/
def cmdLpn (c : Half) : Bool := c.getLsbD 2
/-- `WRTDATA`, bit 0. -/
def cmdWrtdata (c : Half) : Bool := c.getLsbD 0
/-- `dir_x` (R122). -/
def dirX (c : Half) : Int := if c.getLsbD 5 then 1 else -1
/-- `dir_y` (R122). -/
def dirY (c : Half) : Int := if c.getLsbD 7 then 1 else -1
/-- Radial direction code, bits 7:5 (R123). -/
def cmdDir (c : Half) : BitVec 3 := c.extractLsb' 5 3

/-- The x step of a direction code (R123). -/
def ddx (d : BitVec 3) : Int :=
  match d.toNat with
  | 0 => 1
  | 1 => 1
  | 2 => 0
  | 3 => -1
  | 4 => -1
  | 5 => -1
  | 6 => 0
  | _ => 1

/-- The y step of a direction code; y grows downward (R123). -/
def ddy (d : BitVec 3) : Int :=
  match d.toNat with
  | 0 => 0
  | 1 => -1
  | 2 => -1
  | 3 => -1
  | 4 => 0
  | 5 => 1
  | 6 => 1
  | _ => 1

/-- Bus-unit size `U` in bytes (R124). Where a command that is not refused leaves `BUS = 3` in `CMD` on a chip with
the packed sub-mode, the unit is 4 bytes too (assumption log entry 30, DESIGN CHOICE). -/
def unitSize (c : Half) : Nat :=
  match (cmdBus c).toNat with
  | 0 => 1
  | 1 => 2
  | _ => 4

/-- `TakesCpu(c)`: `CMD[8]` in a Line, Rectangle or BitBlt (R154). -/
def takesCpu (c : Half) : Bool :=
  cmdPcdata c && (decide (cmdClass c = 1) || decide (cmdClass c = 2) || decide (cmdClass c = 6))

/-- The rectangle read-back form (R285). -/
def isReadBack (c : Half) : Bool := decide (cmdClass c = 2) && cmdPcdata c && !cmdWrtdata c

/-- The gate of a class (R121, R402). -/
def gate (cap : Cap) (cls : BitVec 3) : Bool :=
  match cls.toNat with
  | 3 => cap.hasPolygon
  | 4 => cap.hasRopblt
  | 5 => cap.hasPolyline
  | _ => true

/-! ### Mix registers and multifunction fields (R125, R131, R132) -/

/-- Colour source of a mix register, bits 6:5 (R125). -/
def mixSource (m : Half) : BitVec 2 := m.extractLsb' 5 2
/-- Mix function of a mix register, bits 3:0 (R125). -/
def mixFunction (m : Half) : BitVec 4 := m.extractLsb' 0 4
/-- `MIXSEL = PIX_CNTL[7:6]` (R131). -/
def Regs.mixSel (r : Regs) : BitVec 2 := r.pixCntl.extractLsb' 6 2
/-- `CMPMODE = MULT_MISC[8:7]` (R132). -/
def Regs.cmpMode (r : Regs) : BitVec 2 := r.multMisc.extractLsb' 7 2
/-- `CLIP_INV = MULT_MISC[5]` (R132). -/
def Regs.clipInv (r : Regs) : Bool := r.multMisc.getLsbD 5

/-- Byte doubling at 16 bpp, the mode of R27. -/
def byteDoubled (cfg : Config) : Bool := cfg.cap.byteDoubling && decide (pixelBytes cfg.depth = 2)

/-! ### Addresses -/

/-- The second-position registers, which a chip has only with one of three capabilities (R112). -/
def isSecondPoint : PortReg → Bool
  | .curY2 => true
  | .curX2 => true
  | .desty2 => true
  | .destx2 => true
  | _ => false

/-- Whether the chip has the second-position registers (R112). -/
def hasSecondPoint (cap : Cap) : Bool := cap.hasPolygon || cap.hasPolyline || cap.hasRopblt

/-- A 16-bit register of the port map as a target: a byte of it, or the whole at its base (R84, R86). -/
def regTarget (r : PortReg) (odd : Bool) (w : Width) : Target :=
  match w, odd with
  | .w8, false => .reg r .lo
  | .w8, true => .reg r .hi
  | .w16, false => .reg r .word
  | _, _ => .unmapped

/-- The pixel-transfer port as a target: a byte of it, or a wider access at its base (R86, R110). -/
def pixTarget (a : Nat) (w : Width) : Target :=
  if w = .w8 ∨ a = pixPortLo then .pix (a % 4) else .unmapped

/-- The target of a port (R110, R112). -/
def resolvePort (cap : Cap) (a : Nat) (w : Width) : Target :=
  if isPixPort a then pixTarget a w
  else
    match findPort a with
    | none => .unmapped
    | some (r, odd) => if isSecondPoint r && !hasSecondPoint cap then .unmapped else regTarget r odd w

/-- The target of a window offset below 0x10000: pixel transfer, a packed register for a 32-bit access where
packed registers are in force, the mirror of a port (R115, R116). An entry of the session's packed map below 0x8000
yields to pixel transfer (assumption log entry 26, DESIGN CHOICE). -/
def resolveWindow (cfg : Config) (packedOn : Bool) (a : Nat) (w : Width) : Target :=
  if a < 0x8000 then .pix (a % 4)
  else
    match (if packedOn && decide (w = .w32) then findPacked a cfg.packedMap else none) with
    | some k => .packed k
    | none => resolvePort cfg.cap a w

/-- `Decode(space, a, n)` of R150: what an access of width `w` at address `a` reaches. -/
def resolve (cfg : Config) (inp : Inputs) (sp : Space) (a : Nat) (w : Width) : Target :=
  match sp with
  | .io => resolvePort cfg.cap a w
  | .legacyMmio =>
    if a < 0x10000 then resolveWindow cfg (cfg.cap.hasPackedMmio && inp.packedMmioMode) a w else .unmapped
  | .newMmio =>
    if a < 0x10000 then resolveWindow cfg true a w
    else if a < 0x18000 then .unmapped
    else if a < 0x20000 then .streams
    else .unmapped

/-- `reaches(space)`: the enables of R89. -/
def reaches (cfg : Config) (inp : Inputs) : Space → Bool
  | .io => inp.ioEnabled
  | .legacyMmio => cfg.cap.hasLegacyMmio && inp.legacyMmioEnabled
  | .newMmio => cfg.cap.hasNewMmio && inp.newMmioEnabled

/-- Look a port up in the port map of second names of a chip (R111). -/
def findAlias (a : Nat) : List (Nat × Nat) → Option Nat
  | [] => none
  | (x, p) :: rest => if a = x then some p else findAlias a rest

/-- The address after R111: an address that names a port (an I/O port, or a window offset from 0x8000 to
0xFFFF) is the port it stands for (assumption log entry 19). -/
def aliased (cfg : Config) (sp : Space) (a : Nat) : Nat :=
  if sp = .io ∨ (0x8000 ≤ a ∧ a < 0x10000) then (findAlias a cfg.aliases).getD a else a

/-- Where a physical address of the host lies in the memory-mapped windows: the legacy window is the 64 KB at
0xA0000, the new one the 128 KB at `linear_base + 0x1000000` (R88). -/
def physicalWindow (cfg : Config) (p : Nat) : Option (Window × Nat) :=
  if cfg.cap.hasNewMmio && decide (cfg.linearBase + 0x1000000 ≤ p) &&
      decide (p < cfg.linearBase + 0x1000000 + 0x20000) then
    some (.linear, p - (cfg.linearBase + 0x1000000))
  else if cfg.cap.hasLegacyMmio && decide (0xA0000 ≤ p) && decide (p < 0xB0000) then some (.legacy, p - 0xA0000)
  else none

/-! ### Split accesses (R86, R95) -/

/-- Bytes of a width. -/
def widthBytes : Width → Nat
  | .w8 => 1
  | .w16 => 2
  | .w32 => 4

/-- The value bits of a width. -/
def widthMask : Width → Word
  | .w8 => 0xFF
  | .w16 => 0xFFFF
  | .w32 => 0xFFFFFFFF

/-- All ones in every byte of an access: open bus (R112). -/
def openBus (w : Width) : Word := widthMask w

/-- No byte of the `n` bytes at `a` decodes. -/
def nothingDecodes (cfg : Config) (inp : Inputs) (sp : Space) (a : Nat) : Nat → Bool
  | 0 => true
  | n + 1 => decide (resolve cfg inp sp a .w8 = .unmapped) && nothingDecodes cfg inp sp (a + 1) n

/-- An access is handled whole when it reaches one register, packed register or the pixel-transfer port, or
when no byte of it decodes (R86, R112; assumption log entry 18). -/
def handledWhole (cfg : Config) (inp : Inputs) (sp : Space) (a : Nat) (w : Width) : Bool :=
  decide (resolve cfg inp sp a w ≠ .unmapped) || nothingDecodes cfg inp sp a (widthBytes w)

/-- The parts of a 16-bit access at byte offset `lane` of the whole (R86). -/
def split16 (cfg : Config) (inp : Inputs) (sp : Space) (a lane : Nat) : List (Nat × Width) :=
  if handledWhole cfg inp sp (a + lane) .w16 then [(lane, .w16)] else [(lane, .w8), (lane + 1, .w8)]

/-- The parts of an access: byte offset and width of each, in address order (R86). -/
def splitOf (cfg : Config) (inp : Inputs) (sp : Space) (a : Nat) (w : Width) : List (Nat × Width) :=
  match w with
  | .w8 => [(0, .w8)]
  | .w16 => split16 cfg inp sp a 0
  | .w32 =>
    if handledWhole cfg inp sp a .w32 then [(0, .w32)]
    else split16 cfg inp sp a 0 ++ split16 cfg inp sp a 2

/-- What a part of an access does: its bytes of the value, or a read of its width (R84). -/
def partAction (act : BusAction) (lane : Nat) (w : Width) : BusAction :=
  match act with
  | .write _ v => .write w ((v >>> (8 * lane)) &&& widthMask w)
  | .read _ => .read w

/-- The bus operations of an access, in order. -/
def partsFrom (sp : Space) (a : Nat) (act : BusAction) : List (Nat × Width) → List Part
  | [] => []
  | (lane, w) :: rest =>
    ⟨sp, a + lane, partAction act lane w, lane, act.width, rest.isEmpty, none⟩ :: partsFrom sp a act rest

/-- The bus operations an access at address `a` is split into. -/
def accessParts (s : State) (sp : Space) (a : Nat) (act : BusAction) : List Part :=
  partsFrom sp a act (splitOf s.cfg s.inputs sp a act.width)

end Sys2Proof.Machine
end

