-- ==== Sys2Proof/Machine/Pixel.lean ====
section
/-!
DEFINITION. The pixel pipeline (spec/42_pixel_pipeline.md): clip, compare, mix bit, colour source, mix and ROP3
functions, write mask, draw enable, and the data a visited pixel consumes.
-/
namespace Sys2Proof.Machine

/-! ### The pure functions -/

/-- `Mix(f, S, D)`, before the reduction to the pixel width (R220). -/
def mixCode (f : BitVec 4) (s d : Word) : Word :=
  match f.toNat with
  | 0x0 => ~~~d
  | 0x1 => 0
  | 0x2 => BitVec.allOnes 32
  | 0x3 => d
  | 0x4 => ~~~s
  | 0x5 => s ^^^ d
  | 0x6 => ~~~(s ^^^ d)
  | 0x7 => s
  | 0x8 => ~~~(s &&& d)
  | 0x9 => ~~~s ||| d
  | 0xA => s ||| ~~~d
  | 0xB => s ||| d
  | 0xC => s &&& d
  | 0xD => s &&& ~~~d
  | 0xE => ~~~s &&& d
  | _ => ~~~(s ||| d)

/-- `Mix(f, S, D)` at the pixel width `pm` (R220). -/
def mixFn (pm : Word) (f : BitVec 4) (s d : Word) : Word := mixCode f s d &&& pm

/-- The word whose bits are 1 exactly where bit `j` of the index `4*P + 2*S + D` pattern holds, kept when the
code has a 1 there. -/
def ropTerm (code : BitVec 8) (j : Nat) (p s d : Word) : Word :=
  if code.getLsbD j then
    (if j.testBit 2 then p else ~~~p) &&& (if j.testBit 1 then s else ~~~s) &&& (if j.testBit 0 then d else ~~~d)
  else 0

/-- `Rop3(code, P, S, D)`: bit by bit, `result[b] = code[4*P[b] + 2*S[b] + D[b]]`, as the union of the eight
terms of the code (R221). -/
def ropCode (code : BitVec 8) (p s d : Word) : Word :=
  ropTerm code 0 p s d ||| ropTerm code 1 p s d ||| ropTerm code 2 p s d ||| ropTerm code 3 p s d |||
    ropTerm code 4 p s d ||| ropTerm code 5 p s d ||| ropTerm code 6 p s d ||| ropTerm code 7 p s d

/-- `Rop3` at the pixel width `pm` (R221). -/
def rop3 (pm : Word) (code : BitVec 8) (p s d : Word) : Word := ropCode code p s d &&& pm

/-- `Inside(X, Y)`: the inclusive clip rectangle (R211). -/
def Regs.insideClip (r : Regs) (x y : Nat) : Bool :=
  decide ((r.mf 2).toNat ≤ x) && decide (x ≤ (r.mf 4).toNat) &&
    (decide ((r.mf 1).toNat ≤ y) && decide (y ≤ (r.mf 3).toNat))

/-- `ClipPass(X, Y)` (R211). -/
def Regs.clipPass (r : Regs) (x y : Nat) : Bool := r.insideClip x y ^^ r.clipInv

/-- `CompareSkip(S)` (R213). -/
def Regs.compareSkip (r : Regs) (pm src : Word) : Bool :=
  match r.cmpMode.toNat with
  | 2 => decide (src &&& pm = r.colorCmp &&& pm)
  | 3 => decide (src &&& pm ≠ r.colorCmp &&& pm)
  | _ => false

/-- The value the write mask lets through (R230). -/
def maskedWrite (wm pm r d : Word) : Word := ((r &&& wm) ||| (d &&& ~~~wm)) &&& pm

/-- The registers as a list of words, what a chip's own ROP code source may read (R321). -/
def Regs.words (r : Regs) : List Word :=
  [r.curX, r.curY, r.curX2, r.curY2, r.destxDiastp, r.destyAxstp, r.destx2, r.desty2, r.errTerm,
   r.majAxisPcnt.setWidth 32, r.bkgdColor, r.frgdColor, r.wrtMask, r.rdMask, r.colorCmp, r.bkgdMix.setWidth 32,
   r.frgdMix.setWidth 32, r.cmd.setWidth 32, r.shortStroke.setWidth 32, r.advfunc.setWidth 32] ++
    r.multifunc.toList.map (·.setWidth 32)

/-- `ROPCODE = RopCodeSource()`, read live (R321). -/
def ropCodeOf (src : RopCodeSource) (r : Regs) : BitVec 8 :=
  match src with
  | .mixNibbles => mixFunction r.frgdMix ++ mixFunction r.bkgdMix
  | .chip mode => Config.chipRopCode mode r.words

/-! ### The data a pixel consumes (R214, R241, R242) -/

/-- The operation takes CPU mix bits: CPU data while `MIXSEL` is 2 (R214). -/
def State.takesCpuBits (s : State) : Bool := takesCpu s.eng.cmd && decide (s.regs.mixSel = 2)

/-- The operation takes CPU pixels: CPU data while `MIXSEL` is not 2 (R242). -/
def State.takesCpuPix (s : State) : Bool := takesCpu s.eng.cmd && !decide (s.regs.mixSel = 2)

/-- The next CPU mix bit, or a free value when the operation takes no CPU data (R214). -/
def State.nextMixBit (s : State) : Bool :=
  if takesCpu s.eng.cmd then s.eng.cpuBits.headD false else (Config.draw s.draws).getLsbD 0

/-- `MixBit(V, X, Y)` (R214); `dst` is the pixel index of the destination. -/
def State.mixBit (s : State) (v : Option Word) (dst : Nat) : Bool :=
  match s.regs.mixSel.toNat with
  | 2 => s.nextMixBit
  | 3 =>
    let t := v.getD (readPixel s.cfg s.vram dst)
    let pm := pixelMask s.cfg.depth
    decide (t &&& s.regs.rdMask &&& pm = s.regs.rdMask &&& pm)
  | _ => true

/-- `CpuPixel()`: the next CPU pixel, or a free value when the operation takes no CPU pixel data (R242). -/
def State.cpuPixel (s : State) : Word :=
  if s.takesCpuPix then s.eng.cpuPix.headD 0 else Config.draw (s.draws + 1)

/-- `Source(csrc, V, c, D)` (R216). A free CPU value has the width of a pixel. -/
def State.colorSource (s : State) (csrc : BitVec 2) (v : Option Word) (d : Word) : Word :=
  let pm := pixelMask s.cfg.depth
  match csrc.toNat with
  | 0 => s.regs.bkgdColor &&& pm
  | 1 => s.regs.frgdColor &&& pm
  | 2 => s.cpuPixel &&& pm
  | _ => v.getD d

/-! ### The per-pixel procedure (R210) -/

/-- The mix register a mix bit selects (R215). -/
def Regs.mixReg (r : Regs) (m : Bool) : Half := if m then r.frgdMix else r.bkgdMix

/-- The result `R` of R210 before the write mask: ROP3 in a ROPBlt, the mix function elsewhere (R322). -/
def State.pixelResult (s : State) (m : Half) (p : Option Word) (src d : Word) : Word :=
  let pm := pixelMask s.cfg.depth
  if s.eng.cls = 4 then rop3 pm (ropCodeOf s.cfg.ropSource s.regs) (p.getD 0) src d
  else mixFn pm (mixFunction m) src d

/-- VRAM after one visited pixel: the gates of R210 in the source's order, clip, compare, draw enable;
`suppress` is the last-pixel-null suppression of R255. -/
def State.pixelVram (s : State) (x y : Int) (v p : Option Word) (suppress : Bool) : Memory :=
  let xr := reduce s.cfg x
  let yr := reduce s.cfg y
  let i := pixAddr s.cfg s.cfg.destBase xr yr
  if s.regs.clipPass xr yr then
    let d := readPixel s.cfg s.vram i
    let m := s.regs.mixReg (s.mixBit v i)
    let src := s.colorSource (mixSource m) v d
    let r := s.pixelResult m p src d
    if s.regs.compareSkip (pixelMask s.cfg.depth) src then s.vram
    else if cmdDraw s.eng.cmd && !suppress then
      writePixel s.cfg s.vram i (maskedWrite s.regs.wrtMask (pixelMask s.cfg.depth) r d)
    else s.vram
  else s.vram

/-- The working state after one visited pixel: one mix bit or one CPU pixel is consumed, whether the pixel is
written or not (R210, R212); the byte-doubling phase becomes a free value (assumption log entry 13). -/
def State.pixelEng (s : State) : Eng :=
  { s.eng with
    cpuBits := if s.takesCpuBits then s.eng.cpuBits.tail else s.eng.cpuBits
    cpuPix := if s.takesCpuPix then s.eng.cpuPix.tail else s.eng.cpuPix
    phase16 := if byteDoubled s.cfg then (Config.draw (s.draws + 2)).getLsbD 0 else s.eng.phase16 }

/-- `Pixel(x, y, V, P)` (R210): one visited destination pixel. Three free values stand ready at each pixel: the
mix bit, the CPU pixel and the phase. -/
def pixel (x y : Int) (v p : Option Word) (suppress : Bool) (s : State) : State :=
  { s with
    vram := s.pixelVram x y v p suppress
    eng := s.pixelEng
    draws := s.draws + 3 }

/-! ### Suspension and row padding (R249, R244) -/

/-- The suspension check: an operation that takes CPU data goes on only while its buffer holds some (R249). -/
def State.hasData (s : State) : Bool :=
  if takesCpu s.eng.cmd then
    (if s.regs.mixSel = 2 then !s.eng.cpuBits.isEmpty else !s.eng.cpuPix.isEmpty)
  else true

/-- Row padding: the data not consumed when a row ends are discarded (R244). -/
def Eng.discardData (e : Eng) : Eng := { e with cpuBits := [], cpuPix := [] }

/-! ### The end of an operation and the walk all classes share (R154) -/

/-- The common part of every `Finish`: not active, `GE_DONE` (R154, R405). -/
def opDone (s : State) : State := raiseIrq geDone { s with eng := { s.eng with active := false } }

/-- A class's walk: while there is data (R249), visit a pixel; after the last one finish, else advance. The
number bounds the pixels left. -/
def runWalk (last : State → Bool) (visit advance finish : State → State) : Nat → State → State
  | 0, s => s
  | n + 1, s =>
    if s.hasData then
      if last (visit s) then finish (visit s) else runWalk last visit advance finish n (advance (visit s))
    else s

/-- The pixel of an 8x8 tile used at a destination position: aligned to the destination's phase, the tile
address not wrapped (R291, R315). -/
def State.tilePixel (s : State) (x y : Int) : Word :=
  readPixel s.cfg s.vram
    (pixAddr s.cfg s.cfg.srcBase ((s.eng.patx + (reduce s.cfg x % 8 : Nat)).toNat)
      ((s.eng.paty + (reduce s.cfg y % 8 : Nat)).toNat)) &&& pixelMask s.cfg.depth

end Sys2Proof.Machine
end

