-- ==== Sys2Proof/Machine/Fills.lean ====
section
/-!
DEFINITION. Rectangle fill, read-back and polygon fill (spec/44_fills.md).
-/
namespace Sys2Proof.Machine

/-! ### Rectangle fill (R280, R281) -/

/-- Start of a rectangle: corner, width and height are latched (R280). -/
def rectInit (s : State) : State :=
  { s with eng := { s.eng with
      x0 := coord s.cfg s.regs.curX
      cx := coord s.cfg s.regs.curX
      cy := coord s.cfg s.regs.curY
      w := s.regs.majAxisPcnt.toNat
      sx := s.regs.majAxisPcnt.toNat
      sy := (s.regs.mf 0).toNat } }

/-- The walk stands at the last pixel of the last row. -/
def rectLast (s : State) : Bool := !decide (0 < s.eng.sx) && !decide (0 < s.eng.sy)

/-- One visited pixel of a rectangle. -/
def rectVisit (s : State) : State := pixel s.eng.cx s.eng.cy none none false s

/-- One step of the destination walk: along the row, or to the start of the next row, where the CPU data left
are discarded (R280, R244). -/
def Eng.rectStep (e : Eng) : Eng :=
  if 0 < e.sx then { e with cx := e.cx + dirX e.cmd, sx := e.sx - 1 }
  else { e.discardData with cx := e.x0, cy := e.cy + dirY e.cmd, sx := e.w, sy := e.sy - 1 }

/-- The step of a rectangle. -/
def rectAdvance (s : State) : State := { s with eng := s.eng.rectStep }

/-- End of a rectangle: the row after the last becomes `CUR_Y` (R280). -/
def rectFinish (s : State) : State :=
  opDone { s with regs := { s.regs with curY := storePos s.cfg (s.eng.cy + dirY s.eng.cmd) } }

/-- The pixels a rectangle walk has left, the one it stands at included. -/
def Eng.walkLeft (e : Eng) : Nat := e.sx.toNat + e.sy.toNat * (e.w.toNat + 1) + 1

/-- Run a rectangle as far as its data allows. -/
def rectRun (s : State) : State := runWalk rectLast rectVisit rectAdvance rectFinish s.eng.walkLeft s

/-! ### Rectangle read-back (R285, R286) -/

/-- Start of a read-back (R285). -/
def readBackInit (s : State) : State :=
  let t := rectInit s
  { t with eng := { t.eng with rb := [], rbEnded := false, dataAvailable := true } }

/-- End of a read-back (R285). -/
def readBackFinish (s : State) : State :=
  rectFinish { s with eng := { s.eng with dataAvailable := false } }

/-- The bytes of a pixel value, least significant first (R286). -/
def pixelBytesOf (v : Word) (k : Nat) : Nat → List Byte
  | 0 => []
  | n + 1 => v.extractLsb' (8 * k) 8 :: pixelBytesOf v (k + 1) n

/-- Fetch the next pixel of a read-back into `eng.rb` and advance as a rectangle does (R286). -/
def readBackFetch (s : State) : State :=
  let d := readPixel s.cfg s.vram
    (pixAddr s.cfg s.cfg.destBase (reduce s.cfg s.eng.cx) (reduce s.cfg s.eng.cy)) &&& pixelMask s.cfg.depth
  let e := { s.eng with rb := pixelBytesOf d 0 (pixelBytes s.cfg.depth) }
  { s with eng := if rectLast s then { e with rbEnded := true } else e.rectStep }

/-- The read-back has a byte ready, fetching a pixel where none is left. -/
def readBackFill (s : State) : State := if s.eng.rb.isEmpty then readBackFetch s else s

/-- `ReadBackByte()`: the byte and the state after it (R286). -/
def readBackByte (s : State) : Byte × State :=
  let t := readBackFill s
  let u : State := { t with eng := { t.eng with rb := t.eng.rb.tail } }
  (t.eng.rb.headD 0, if u.eng.rb.isEmpty && u.eng.rbEnded then readBackFinish u else u)

/-! ### Polygon fill (R290 to R292) -/

/-- One fixed-point unit, 20 fraction bits (R290). -/
def polyUnit : Int := 2 ^ 20

/-- `Setup`: the per-scanline delta of an edge, truncated toward zero (R290). -/
def polySetup (xa ya xb yb : Int) : Int := if yb = ya then 0 else Int.tdiv ((xb - xa) * polyUnit) (yb - ya)

/-- Start of a polygon: both edges are set up (R290). -/
def polyInit (s : State) : State :=
  let xa1 : Int := coord s.cfg s.regs.curX
  let ya1 : Int := coord s.cfg s.regs.curY
  let xb1 : Int := coord s.cfg s.regs.destxDiastp
  let yb1 : Int := coord s.cfg s.regs.destyAxstp
  let xa2 : Int := coord s.cfg s.regs.curX2
  let ya2 : Int := coord s.cfg s.regs.curY2
  let xb2 : Int := coord s.cfg s.regs.destx2
  let yb2 : Int := coord s.cfg s.regs.desty2
  { s with eng := { s.eng with
      cy := ya1
      sy := min yb1 yb2 - ya1
      dfx1 := polySetup xa1 ya1 xb1 yb1
      fx1 := xa1 * polyUnit
      dfx2 := polySetup xa2 ya2 xb2 yb2
      fx2 := xa2 * polyUnit + polySetup xa2 ya2 xb2 yb2 * (ya1 - ya2)
      patx := 0
      paty := 0 } }

/-- The integer part of a fixed-point position, `floor(v / 2^20)` (R292). -/
def polyFloor (v : Int) : Int := v / polyUnit

/-- The source value of a polygon pixel: the tile pixel when `PAT8` is set (R290, R291). -/
def polySource (s : State) (x : Int) : Option Word :=
  if cmdPat8 s.eng.cmd then some (s.tilePixel x s.eng.cy) else none

/-- Fill `n` pixels of the scanline from `x` on, left to right (R290). -/
def polySpan : Nat → Int → State → State
  | 0, _, s => s
  | n + 1, x, s => polySpan n (x + 1) (pixel x s.eng.cy (polySource s x) none false s)

/-- The step from one scanline to the next (R290). -/
def Eng.polyStep (e : Eng) : Eng :=
  { e with fx1 := e.fx1 + e.dfx1, fx2 := e.fx2 + e.dfx2, cy := e.cy + 1, sy := e.sy - 1 }

/-- The left end of the scanline's span. -/
def Eng.polyLeft (e : Eng) : Int := min (polyFloor e.fx1) (polyFloor e.fx2)

/-- The right end of the scanline's span. -/
def Eng.polyRight (e : Eng) : Int := max (polyFloor e.fx1) (polyFloor e.fx2)

/-- One scanline: the inclusive span between the edges, then the step. -/
def polyScan (s : State) : State :=
  let t := polySpan (s.eng.polyRight - s.eng.polyLeft + 1).toNat s.eng.polyLeft s
  { t with eng := t.eng.polyStep }

/-- `n` scanlines. -/
def polyLoop : Nat → State → State
  | 0, s => s
  | n + 1, s => polyLoop n (polyScan s)

/-- End of a polygon: both edges' positions on the next row are written back (R290). -/
def polyFinish (s : State) : State :=
  opDone { s with regs := { s.regs with
      curX := storePos s.cfg (polyFloor s.eng.fx1)
      curY := storePos s.cfg s.eng.cy
      curX2 := storePos s.cfg (polyFloor s.eng.fx2)
      curY2 := storePos s.cfg s.eng.cy } }

/-- Run a polygon: one scanline for each `sy` from its start down to 0 (R290). -/
def polyRun (s : State) : State := polyFinish (polyLoop (s.eng.sy + 1).toNat s)

end Sys2Proof.Machine
end

