-- ==== Sys2Proof/Machine/Blits.lean ====
section
/-!
DEFINITION. BitBlt, pattern fill and ROPBlt (spec/45_blits.md): the rectangle walk with a source.
-/
namespace Sys2Proof.Machine

/-! ### BitBlt (R310) -/

/-- Start of a blit: source corner, destination corner, width and height are latched (R310). -/
def blitInit (s : State) : State :=
  { s with eng := { s.eng with
      srcx0 := coord s.cfg s.regs.curX
      srcx := coord s.cfg s.regs.curX
      srcy := coord s.cfg s.regs.curY
      x0 := coord s.cfg s.regs.destxDiastp
      cx := coord s.cfg s.regs.destxDiastp
      cy := coord s.cfg s.regs.destyAxstp
      w := s.regs.majAxisPcnt.toNat
      sx := s.regs.majAxisPcnt.toNat
      sy := (s.regs.mf 0).toNat } }

/-- The source pixel of a blit, read at the step and not clipped (R310, R212). -/
def State.sourcePixel (s : State) : Word :=
  readPixel s.cfg s.vram
    (pixAddr s.cfg s.cfg.srcBase (reduce s.cfg s.eng.srcx) (reduce s.cfg s.eng.srcy)) &&& pixelMask s.cfg.depth

/-- One visited pixel of a BitBlt. -/
def blitVisit (s : State) : State := pixel s.eng.cx s.eng.cy (some s.sourcePixel) none false s

/-- One step of the walk with the source moving along (R310). -/
def Eng.blitStep (e : Eng) : Eng :=
  if 0 < e.sx then { e.rectStep with srcx := e.srcx + dirX e.cmd }
  else { e.rectStep with srcx := e.srcx0, srcy := e.srcy + dirY e.cmd }

/-- The step of a BitBlt. -/
def blitAdvance (s : State) : State := { s with eng := s.eng.blitStep }

/-- Run a BitBlt as far as its data allows; no register is written back (R310). -/
def blitRun (s : State) : State := runWalk rectLast blitVisit blitAdvance opDone s.eng.walkLeft s

/-! ### Pattern fill (R315) -/

/-- Start of a pattern fill: tile origin and destination rectangle are latched (R315). -/
def patInit (s : State) : State :=
  { s with eng := { s.eng with
      patx := coord s.cfg s.regs.curX
      paty := coord s.cfg s.regs.curY
      x0 := coord s.cfg s.regs.destxDiastp
      cx := coord s.cfg s.regs.destxDiastp
      cy := coord s.cfg s.regs.destyAxstp
      w := s.regs.majAxisPcnt.toNat
      sx := s.regs.majAxisPcnt.toNat
      sy := (s.regs.mf 0).toNat } }

/-- One visited pixel of a pattern fill. -/
def patVisit (s : State) : State :=
  pixel s.eng.cx s.eng.cy (some (s.tilePixel s.eng.cx s.eng.cy)) none false s

/-- Run a pattern fill; no register is written back (R315). -/
def patRun (s : State) : State := runWalk rectLast patVisit rectAdvance opDone s.eng.walkLeft s

/-! ### ROPBlt (R320) -/

/-- Start of a ROPBlt: a BitBlt's, with the tile origin from the second position (R320). -/
def ropInit (s : State) : State :=
  let t := blitInit s
  { t with eng := { t.eng with patx := coord s.cfg s.regs.curX2, paty := coord s.cfg s.regs.curY2 } }

/-- The pattern value of a ROPBlt: the tile pixel when `PAT8` is set, else the foreground colour (R320). -/
def State.ropPattern (s : State) : Word :=
  if cmdPat8 s.eng.cmd then s.tilePixel s.eng.cx s.eng.cy else s.regs.frgdColor &&& pixelMask s.cfg.depth

/-- One visited pixel of a ROPBlt. -/
def ropVisit (s : State) : State := pixel s.eng.cx s.eng.cy (some s.sourcePixel) (some s.ropPattern) false s

/-- Run a ROPBlt; no register is written back (R320). -/
def ropRun (s : State) : State := runWalk rectLast ropVisit blitAdvance opDone s.eng.walkLeft s

end Sys2Proof.Machine
end

