-- ==== Sys2Proof/Machine/Lines.lean ====
section
/-!
DEFINITION. Short strokes, lines and polylines (spec/43_lines.md): `Init`, the walk and `Finish` of each class.
-/
namespace Sys2Proof.Machine

/-! ### NOP (R250) -/

/-- The NOP class finishes at once and writes nothing back (R250). -/
def nopRun (s : State) : State := opDone s

/-! ### Line, Bresenham (R255) -/

/-- Start of a Bresenham line: position, count, error term and the two steps are latched (R255). -/
def lineInit (s : State) : State :=
  { s with eng := { s.eng with
      cx := coord s.cfg s.regs.curX
      cy := coord s.cfg s.regs.curY
      sy := s.regs.majAxisPcnt.toNat
      err := s.regs.errTerm.toInt
      ax := s.regs.destyAxstp.toInt
      dia := s.regs.destxDiastp.toInt } }

/-- Whether the last pixel of a line is not written: last-pixel-null where the session honours it (R255). -/
def State.lpnSuppress (s : State) (isLast : Bool) : Bool := isLast && s.cfg.lpnHonoured && cmdLpn s.eng.cmd

/-- The line stands at its last pixel. -/
def lineLast (s : State) : Bool := decide (s.eng.sy = 0)

/-- One visited pixel of a line, Bresenham or radial. -/
def lineVisit (s : State) : State :=
  pixel s.eng.cx s.eng.cy none none (s.lpnSuppress (lineLast s)) s

/-- One Bresenham step: the major axis, then by the sign of the error term the minor axis (R255). -/
def Eng.lineStep (e : Eng) : Eng :=
  { e with
    cx := if cmdYmaj e.cmd then (if 0 ≤ e.err then e.cx + dirX e.cmd else e.cx) else e.cx + dirX e.cmd
    cy := if cmdYmaj e.cmd then e.cy + dirY e.cmd else (if 0 ≤ e.err then e.cy + dirY e.cmd else e.cy)
    err := if 0 ≤ e.err then e.err + e.dia else e.err + e.ax
    sy := e.sy - 1 }

/-- The step of a Bresenham line. -/
def lineAdvance (s : State) : State := { s with eng := s.eng.lineStep }

/-- End of a Bresenham line: the last position and the error term are written back (R255, R257). -/
def lineFinish (s : State) : State :=
  opDone { s with regs := { s.regs with
      curX := storePos s.cfg s.eng.cx
      curY := storePos s.cfg s.eng.cy
      errTerm := storeErr s.eng.err } }

/-- Run a Bresenham line as far as its data allows. -/
def lineRun (s : State) : State :=
  runWalk lineLast lineVisit lineAdvance lineFinish (s.eng.sy.toNat + 1) s

/-! ### Line, radial (R260) -/

/-- Start of a radial line (R260). -/
def radialInit (s : State) : State :=
  { s with eng := { s.eng with
      cx := coord s.cfg s.regs.curX
      cy := coord s.cfg s.regs.curY
      sy := s.regs.majAxisPcnt.toNat } }

/-- One radial step (R260). -/
def radialAdvance (s : State) : State :=
  { s with eng := { s.eng with
      cx := s.eng.cx + ddx (cmdDir s.eng.cmd)
      cy := s.eng.cy + ddy (cmdDir s.eng.cmd)
      sy := s.eng.sy - 1 } }

/-- End of a radial line: the position is written back, the error term is not (R260). -/
def radialFinish (s : State) : State :=
  opDone { s with regs := { s.regs with
      curX := storePos s.cfg s.eng.cx
      curY := storePos s.cfg s.eng.cy } }

/-- Run a radial line as far as its data allows. -/
def radialRun (s : State) : State :=
  runWalk lineLast lineVisit radialAdvance radialFinish (s.eng.sy.toNat + 1) s

/-! ### Polyline (R265) -/

/-- Start of a polyline: both end points are latched (R265). -/
def polylineInit (s : State) : State :=
  let x0 : Int := coord s.cfg s.regs.curX
  let y0 : Int := coord s.cfg s.regs.curY
  let x1 : Int := coord s.cfg s.regs.destxDiastp
  let y1 : Int := coord s.cfg s.regs.destyAxstp
  { s with eng := { s.eng with
      plX := x0
      plY := y0
      plX1 := x1
      plY1 := y1
      plDx := (x1 - x0).natAbs
      plDy := (y1 - y0).natAbs
      plSx := if x0 ≤ x1 then 1 else -1
      plSy := if y0 ≤ y1 then 1 else -1
      plErr := ((x1 - x0).natAbs : Int) - ((y1 - y0).natAbs : Int) } }

/-- The polyline stands at its end point. -/
def polylineLast (s : State) : Bool := decide (s.eng.plX = s.eng.plX1) && decide (s.eng.plY = s.eng.plY1)

/-- One visited pixel of a polyline. -/
def polylineVisit (s : State) : State :=
  pixel s.eng.plX s.eng.plY none none (s.lpnSuppress (polylineLast s)) s

/-- One step of the symmetric Bresenham: both tests are made against the error term before the step (R265). -/
def Eng.polylineStep (e : Eng) : Eng :=
  let xStep : Bool := decide (-e.plDy < 2 * e.plErr)
  let yStep : Bool := decide (2 * e.plErr < e.plDx)
  { e with
    plX := if xStep then e.plX + e.plSx else e.plX
    plY := if yStep then e.plY + e.plSy else e.plY
    plErr := e.plErr - (if xStep then e.plDy else 0) + (if yStep then e.plDx else 0) }

/-- The step of a polyline. -/
def polylineAdvance (s : State) : State := { s with eng := s.eng.polylineStep }

/-- End of a polyline: the end point becomes the current position (R265). -/
def polylineFinish (s : State) : State :=
  opDone { s with regs := { s.regs with
      curX := storePos s.cfg s.eng.plX1
      curY := storePos s.cfg s.eng.plY1 } }

/-- Run a polyline; its steps number at most the two differences together. -/
def polylineRun (s : State) : State :=
  runWalk polylineLast polylineVisit polylineAdvance polylineFinish ((s.eng.plDx + s.eng.plDy).toNat + 1) s

/-! ### Short strokes (R252) -/

/-- The positions of a stroke: `n + 1` pixels in direction `d` from `(x, y)`, the last one becoming the current
position (R252). -/
def strokeWalk (d : BitVec 3) : Nat → Int → Int → State → State
  | 0, x, y, s =>
    let t := pixel x y none none false s
    raiseIrq geDone { t with regs := { t.regs with curX := storePos t.cfg x, curY := storePos t.cfg y } }
  | n + 1, x, y, s => strokeWalk d n (x + ddx d) (y + ddy d) (pixel x y none none false s)

/-- The `CMD` word a stroke draws with: bit 4 replaced by the stroke's (R252). -/
def strokeCmd (c : Half) (b : Byte) : Half :=
  c.extractLsb' 5 11 ++ (BitVec.ofBool (b.getLsbD 4) ++ c.extractLsb' 0 4)

/-- The working state a stroke sets (R252). -/
def strokeInit (b : Byte) (s : State) : State :=
  { s with eng := { s.eng with cls := 0, cmd := strokeCmd s.regs.cmd b } }

/-- `SSV(b)` without its refusal check (R252). -/
def strokeRun (b : Byte) (s : State) : State :=
  strokeWalk (b.extractLsb' 5 3) (b.extractLsb' 0 4).toNat (coord s.cfg s.regs.curX) (coord s.cfg s.regs.curY)
    (strokeInit b s)

end Sys2Proof.Machine
end

