-- ==== Sys2Proof/Machine/Engine.lean ====
section
/-!
DEFINITION. The engine: what the spec refuses, the start of an operation (spec/40_bus_access.md R154), its runs,
short strokes (R155) and CPU-fed data (R162, spec/42_pixel_pipeline.md R240 to R244).
-/
namespace Sys2Proof.Machine

/-! ### The spec's refusals (R27 to R29, R242) -/

/-- A command that draws: its draw-enable bit is set, and it is a stroke or a command of a drawing class that
is no read-back (R27; assumption log entry 14). -/
def drawsPixels (stroke : Bool) (c : Half) : Bool :=
  cmdDraw c && (stroke || (!decide (cmdClass c = 0) && !isReadBack c))

/-- The operation is fed pixels, not mix bits, by the CPU (R29, R242; entry 16). -/
def fedPixels (r : Regs) (c : Half) : Bool := takesCpu c && cmdWrtdata c && !decide (r.mixSel = 2)

/-- Pixels do not fit the bus unit: 24 bpp, or a unit narrower than a pixel (R29, R242). -/
def pixelsDoNotFit (cfg : Config) (c : Half) : Bool :=
  decide (pixelBytes cfg.depth = 3) || decide (unitSize c < pixelBytes cfg.depth)

/-- `Refused(CMD)` of R154 and R252, with its reason. -/
def refusedCommand (s : State) (stroke : Bool) (c : Half) : Option Refusal :=
  if byteDoubled s.cfg && drawsPixels stroke c then some .byteDoubling16bpp
  else if s.cfg.cap.hasPacked32 && decide (cmdBus c = 3) then some .packed32SubMode
  else if fedPixels s.regs c && pixelsDoNotFit s.cfg c then some .cpuPixelPacking
  else none

/-! ### Starting and running an operation (R154) -/

/-- `Init` of the class of `eng.cmd`. -/
def initOp (s : State) : State :=
  match s.eng.cls.toNat with
  | 0 => s
  | 1 => if cmdRadial s.eng.cmd then radialInit s else lineInit s
  | 2 => if isReadBack s.eng.cmd then readBackInit s else rectInit s
  | 3 => polyInit s
  | 4 => ropInit s
  | 5 => polylineInit s
  | 6 => blitInit s
  | _ => patInit s

/-- `Run` of the class of `eng.cmd`, as far as the data goes. -/
def runOp (s : State) : State :=
  match s.eng.cls.toNat with
  | 0 => nopRun s
  | 1 => if cmdRadial s.eng.cmd then radialRun s else lineRun s
  | 2 => rectRun s
  | 3 => polyRun s
  | 4 => ropRun s
  | 5 => polylineRun s
  | 6 => blitRun s
  | _ => patRun s

/-- The first lines of `StartOp`: the old operation and its data are dropped, `CMD` is latched (R154). -/
def latchCmd (s : State) : State :=
  { s with eng := { s.eng with
      cpuBits := []
      cpuPix := []
      cmd := s.regs.cmd
      cls := cmdClass s.regs.cmd
      active := false } }

/-- The operation is active once its class has been initialised. -/
def activate (s : State) : State := { s with eng := { s.eng with active := true } }

/-- The operation of the latched `CMD`, started: suspended where it takes CPU data, else run to its end. -/
def beginOp (s : State) : State :=
  let t := activate (initOp s)
  if takesCpu t.eng.cmd then t else runOp t

/-- `StartOp()` (R154): a gated class does nothing (R402). -/
def startOp (s : State) : Result :=
  let t := latchCmd s
  if gate t.cfg.cap t.eng.cls then
    match refusedCommand t false t.eng.cmd with
    | some r => .refused r
    | none => .next (beginOp t)
  else .next t

/-! ### Short strokes (R155, R252) -/

/-- `SSV(b)` (R252): refused where a command drawing as the stroke does is. -/
def ssv (b : Byte) (s : State) : Result :=
  match refusedCommand s true (strokeCmd s.regs.cmd b) with
  | some r => .refused r
  | none => .next (strokeRun b s)

/-- `Stroke(b)`: a stroke draws only while the command class is NOP (R155). -/
def stroke (b : Byte) (s : State) : Result := if cmdClass s.regs.cmd = 0 then ssv b s else .next s

/-! ### CPU-fed data (R162, R240 to R243) -/

/-- `Σ PIX_TRANS[j] << 8j` for `j < n`, from byte `j` on (R162). -/
def stagedUnit (p : Vector Byte 4) : Nat → Word
  | 1 => p[0].setWidth 32
  | 2 => (p[1] ++ p[0]).setWidth 32
  | _ => p[3] ++ (p[2] ++ (p[1] ++ p[0]))

/-- `Swap(unit)`: the two bytes of each 16-bit half exchanged when `CMD[12]` is set and the unit has more than
one byte (R243). -/
def swapUnit (c : Half) (n : Nat) (u : Word) : Word :=
  if cmdSwap c && decide (2 ≤ n) then
    u.extractLsb' 16 8 ++ (u.extractLsb' 24 8 ++ (u.extractLsb' 0 8 ++ u.extractLsb' 8 8))
  else u

/-- The bits of a byte from bit 7 down to bit 0 (R241). -/
def byteBits (b : Byte) : List Bool :=
  [b.getLsbD 7, b.getLsbD 6, b.getLsbD 5, b.getLsbD 4, b.getLsbD 3, b.getLsbD 2, b.getLsbD 1, b.getLsbD 0]

/-- The mix bits of `n` bytes of a unit, from byte `k` on, in consumption order (R241). -/
def unitBits (u : Word) (k : Nat) : Nat → List Bool
  | 0 => []
  | n + 1 => byteBits (u.extractLsb' (8 * k) 8) ++ unitBits u (k + 1) n

/-- `n` pixels of a unit, from pixel `j` on, in increasing order (R242). -/
def unitPixels (d : Depth) (u : Word) (j : Nat) : Nat → List Word
  | 0 => []
  | n + 1 => ((u >>> (8 * pixelBytes d * j)) &&& pixelMask d) :: unitPixels d u (j + 1) n

/-- Append a unit to the data of the suspended operation: mix bits while `MIXSEL` is 2, else pixels (R240). -/
def appendUnit (u : Word) (s : State) : State :=
  let n := unitSize s.regs.cmd
  if s.regs.mixSel = 2 then { s with eng := { s.eng with cpuBits := s.eng.cpuBits ++ unitBits u 0 n } }
  else
    { s with eng := { s.eng with
        cpuPix := s.eng.cpuPix ++ unitPixels s.cfg.depth u 0 (n / pixelBytes s.cfg.depth) } }

/-- `Feed(unit)` (R240): swap, append, run as far as the data goes; pixels that do not fit the unit are refused
here too, since `PIX_CNTL` is read live (R56, entry 16). -/
def feed (unit : Word) (s : State) : Result :=
  if fedPixels s.regs s.eng.cmd && pixelsDoNotFit s.cfg s.regs.cmd then .refused .cpuPixelPacking
  else .next (runOp (appendUnit (swapUnit s.eng.cmd (unitSize s.regs.cmd) unit) s))

/-- Put a byte into the staging buffer (R162). -/
def stageByte (b : Byte) (s : State) : State :=
  { s with regs := { s.regs with
      pixTrans := s.regs.pixTrans.set s.eng.pixCount.toNat b (by have := s.eng.pixCount.isLt; omega) } }

/-- The count of staged bytes; it is two bits wide and wraps where a unit of another size was begun (R49, entry
20). -/
def setPixCount (n : Nat) (s : State) : State :=
  { s with eng := { s.eng with pixCount := BitVec.ofNat 2 n } }

/-- One byte of a pixel-transfer write (R162): the byte that completes a unit feeds the operation that takes
CPU data. -/
def pixByte (b : Byte) (s : State) : Result :=
  let t := stageByte b s
  let n := s.eng.pixCount.toNat + 1
  if n = unitSize s.regs.cmd then
    let u := setPixCount 0 t
    if u.eng.active && takesCpu u.eng.cmd && cmdWrtdata u.eng.cmd then feed (stagedUnit u.regs.pixTrans n) u
    else .next u
  else .next (setPixCount n t)

/-- The bytes of a pixel-transfer write, in increasing address order (R162). -/
def writePix : List Byte → State → Result
  | [], s => .next s
  | b :: bs, s => thenNext (pixByte b s) (writePix bs)

/-- The bytes of a value, from byte `k` on, `n` of them. -/
def valueBytes (v : Word) (k : Nat) : Nat → List Byte
  | 0 => []
  | n + 1 => v.extractLsb' (8 * k) 8 :: valueBytes v (k + 1) n

/-! ### Reading the pixel-transfer port (R175) -/

/-- The operation is a read-back in progress (R175). -/
def State.readingBack (s : State) : Bool :=
  s.eng.active && decide (s.eng.cls = 2) && cmdPcdata s.eng.cmd && !cmdWrtdata s.eng.cmd

/-- One byte of a pixel-transfer read: a read-back byte, else a staging byte (R175). -/
def readPixByte (lane : Nat) (s : State) : Byte × State :=
  if s.readingBack then readBackByte s
  else (s.regs.pixTrans[lane % 4]'(Nat.mod_lt _ (by decide)), s)

/-- The value of a pixel-transfer read of `n` bytes, from byte `k` on, and the state after it (R175). -/
def readPix (lane k : Nat) : Nat → State → Word × State
  | 0, s => (0, s)
  | n + 1, s =>
    let r := readPixByte (lane + k) s
    let q := readPix lane (k + 1) n r.2
    ((r.1.setWidth 32 <<< (8 * k)) ||| q.1, q.2)

end Sys2Proof.Machine
end

