-- ==== Sys2Proof/Machine/Flags.lean ====
section
/-!
DEFINITION. The status words the spec computes rather than stores: `GP_STAT`, `SUBSYS_STAT` and the interrupt
output.
-/
namespace Sys2Proof.Machine

/-- Bit `j` of the free-slot thermometer: `FREE < 8 - j`, where `FREE = (FIFO_SIZE - FIFO_HEADROOM) -
FIFO_ENTRIES` (R140), written without a negative number. -/
def thermometerBit (entries j : Nat) : Bool :=
  decide (Config.fifoSize - Config.fifoHeadroom < entries + (8 - j))

/-- Bits 7:0 of `GP_STAT` (R140). -/
def thermometer (entries : Nat) : Byte :=
  BitVec.ofBool (thermometerBit entries 7) ++ (BitVec.ofBool (thermometerBit entries 6) ++
    (BitVec.ofBool (thermometerBit entries 5) ++ (BitVec.ofBool (thermometerBit entries 4) ++
      (BitVec.ofBool (thermometerBit entries 3) ++ (BitVec.ofBool (thermometerBit entries 2) ++
        (BitVec.ofBool (thermometerBit entries 1) ++ BitVec.ofBool (thermometerBit entries 0)))))))

/-- Busy: `eng.active or fifo.busy or FIFO_ENTRIES > 0` (R140). -/
def State.busy (s : State) : Bool := s.eng.active || s.fifo.busy || decide (0 < s.fifo.entries)

/-- `GP_STAT` (R140). -/
def State.gpStat (s : State) : Half :=
  (0 : BitVec 6) ++ (BitVec.ofBool s.busy ++ (BitVec.ofBool s.eng.dataAvailable ++ thermometer s.fifo.entries))

/-- `SUBSYS_STAT` as it is read (R141). -/
def State.subsysStatWord (s : State) : Half := (0 : BitVec 12) ++ s.regs.subsysStat

/-- The interrupt output, a level (R406). -/
def State.irq (s : State) : Bool := decide (s.regs.subsysStat &&& s.regs.subsysEn ≠ 0)

end Sys2Proof.Machine
end

