-- ==== Sys2Proof/Machine/Registers.lean ====
section
/-!
DEFINITION. `Dispatch`, the register-file effect of one write (spec/40_bus_access.md R151 to R167), and
`ReadValue`, what a read returns and changes (R171 to R176).
-/
namespace Sys2Proof.Machine

/-- Change the register file. -/
def mapRegs (f : Regs → Regs) (s : State) : State := { s with regs := f s.regs }

/-! ### Colour and mask registers (R156, R44) -/

/-- Byte arrays of which nothing is known (assumption log entry 12). -/
def freeLanes (w : Word) : ByteLanes :=
  ⟨w.extractLsb' 0 8, w.extractLsb' 8 8, w.extractLsb' 16 8, w.extractLsb' 24 8⟩

/-- The byte arrays of a colour or mask register after a write: on a byte-doubling chip at 16 bpp they take a
value by a rule the spec does not give, elsewhere they are not written (R44, R156). -/
def State.lanesAfter (s : State) (l : ByteLanes) : ByteLanes :=
  if byteDoubled s.cfg then freeLanes (Config.draw s.draws) else l

/-- The free values a colour write draws. -/
def State.drawsAfterColor (s : State) : Nat := if byteDoubled s.cfg then s.draws + 1 else s.draws

/-- Write a part of a colour or mask register (R156): `f` stores the new value and byte arrays. -/
def writeColor (part : RegPart) (v old : Word) (lanes : ByteLanes) (f : Regs → Word → ByteLanes → Regs)
    (s : State) : State :=
  { s with
    regs := f s.regs (writeColorPart part s.regs.colorShift v old) (s.lanesAfter lanes)
    draws := s.drawsAfterColor }

/-! ### `CMD`, `MULTIFUNC`, `SUBSYS_CNTL`, `ADVFUNC_CNTL` -/

/-- Low-byte write of `CMD`: the pixel-transfer count and `data_available` are cleared (R153). -/
def writeCmdLow (v : Word) (s : State) : State :=
  { s with
    regs := { s.regs with cmd := writeHalf .lo v s.regs.cmd }
    eng := { s.eng with pixCount := 0, dataAvailable := false } }

/-- High-byte write of `CMD`, before it starts the operation (R153). -/
def writeCmdHigh (v : Word) (s : State) : State :=
  { s with
    regs := { s.regs with cmd := writeHalf .hi v s.regs.cmd }
    eng := { s.eng with phase16 := if byteDoubled s.cfg then false else s.eng.phase16 } }

/-- Write `CMD` (R153): the high byte starts the operation. -/
def writeCmd (part : RegPart) (v : Word) (s : State) : Result :=
  match part with
  | .lo => .next (writeCmdLow v s)
  | .hi => startOp (writeCmdHigh v s)
  | .word => startOp (writeCmdHigh (v >>> 8) (writeCmdLow v s))

/-- Store a byte of `SHORT_STROKE` and draw its stroke (R155). -/
def writeStrokeByte (part : RegPart) (b : Byte) (s : State) : Result :=
  stroke b (mapRegs (fun r => { r with shortStroke := writeHalf part (b.setWidth 32) r.shortStroke }) s)

/-- Write `SHORT_STROKE`: the low byte's stroke is drawn first (R155). -/
def writeShortStroke (part : RegPart) (v : Word) (s : State) : Result :=
  match part with
  | .lo => writeStrokeByte .lo (v.setWidth 8) s
  | .hi => writeStrokeByte .hi (v.setWidth 8) s
  | .word =>
    thenNext (writeStrokeByte .lo (v.extractLsb' 0 8) s) (writeStrokeByte .hi (v.extractLsb' 8 8))

/-- Write `MULTIFUNC`: the index stands in the top nibble; the low byte of two byte writes waits in `MF_LATCH`
(R160). -/
def writeMultifunc (part : RegPart) (v : Word) (r : Regs) : Regs :=
  match part with
  | .lo => { r with mfLatch := v.extractLsb' 0 8 }
  | .hi => r.setMf (v.extractLsb' 4 4) (v.extractLsb' 0 4 ++ r.mfLatch)
  | .word => r.setMf (v.extractLsb' 12 4) (v.extractLsb' 0 12)

/-- Write `SUBSYS_CNTL`: bits 3:0 clear status bits, bits 11:8 are the enables; a byte write does the part its
lane holds (R142, R166). -/
def writeSubsys (part : RegPart) (v : Word) (r : Regs) : Regs :=
  match part with
  | .lo => { r with subsysStat := r.subsysStat &&& ~~~(v.extractLsb' 0 4) }
  | .hi => { r with subsysEn := v.extractLsb' 0 4 }
  | .word =>
    { r with subsysStat := r.subsysStat &&& ~~~(v.extractLsb' 0 4), subsysEn := v.extractLsb' 8 4 }

/-- Write `ADVFUNC_CNTL` and emit the notify event (R167, R91). -/
def writeAdvfunc (part : RegPart) (v : Word) (s : State) : State :=
  { s with
    regs := { s.regs with advfunc := writeHalf part v s.regs.advfunc }
    host := { s.host with history := .recalc :: s.host.history } }

/-! ### Dispatch (R150) -/

/-- The effect of a write to a part of a port register. -/
def writeReg (r : PortReg) (part : RegPart) (v : Word) (s : State) : Result :=
  match r with
  | .subsys => .next (mapRegs (writeSubsys part v) s)
  | .advfunc => .next (writeAdvfunc part v s)
  | .curY => .next (mapRegs (fun r => { r with curY := writeCoord part v r.curY }) s)
  | .curX => .next (mapRegs (fun r => { r with curX := writeCoord part v r.curX }) s)
  | .destyAxstp => .next (mapRegs (fun r => { r with destyAxstp := writeCoord part v r.destyAxstp }) s)
  | .destxDiastp => .next (mapRegs (fun r => { r with destxDiastp := writeCoord part v r.destxDiastp }) s)
  | .errTerm => .next (mapRegs (fun r => { r with errTerm := writeCoord part v r.errTerm }) s)
  | .majAxisPcnt => .next (mapRegs (fun r => { r with majAxisPcnt := writeCount part v r.majAxisPcnt }) s)
  | .cmd => writeCmd part v s
  | .shortStroke => writeShortStroke part v s
  | .bkgdColor =>
    .next (writeColor part v s.regs.bkgdColor s.regs.bkgdLanes
      (fun r c l => { r with bkgdColor := c, bkgdLanes := l }) s)
  | .frgdColor =>
    .next (writeColor part v s.regs.frgdColor s.regs.frgdLanes
      (fun r c l => { r with frgdColor := c, frgdLanes := l }) s)
  | .wrtMask =>
    .next (writeColor part v s.regs.wrtMask s.regs.wrtLanes
      (fun r c l => { r with wrtMask := c, wrtLanes := l }) s)
  | .rdMask =>
    .next (writeColor part v s.regs.rdMask s.regs.rdLanes (fun r c l => { r with rdMask := c, rdLanes := l }) s)
  | .colorCmp =>
    .next (writeColor part v s.regs.colorCmp s.regs.cmpLanes
      (fun r c l => { r with colorCmp := c, cmpLanes := l }) s)
  | .bkgdMix => .next (mapRegs (fun r => { r with bkgdMix := writeHalf part v r.bkgdMix }) s)
  | .frgdMix => .next (mapRegs (fun r => { r with frgdMix := writeHalf part v r.frgdMix }) s)
  | .multifunc => .next (mapRegs (writeMultifunc part v) s)
  | .curY2 => .next (mapRegs (fun r => { r with curY2 := writeCoord part v r.curY2 }) s)
  | .curX2 => .next (mapRegs (fun r => { r with curX2 := writeCoord part v r.curX2 }) s)
  | .desty2 => .next (mapRegs (fun r => { r with desty2 := writeCoord part v r.desty2 }) s)
  | .destx2 => .next (mapRegs (fun r => { r with destx2 := writeCoord part v r.destx2 }) s)

/-- Store a whole colour or mask register (R164). -/
def packedColor (v : Word) (lanes : ByteLanes) (f : Regs → Word → ByteLanes → Regs) (s : State) : State :=
  { s with regs := f s.regs v (s.lanesAfter lanes), draws := s.drawsAfterColor }

/-- The effect of a packed write, all fields at once (R117, R164). -/
def writePacked (k : PackedReg) (v : Word) (s : State) : State :=
  match k with
  | .bkgdColor => packedColor v s.regs.bkgdLanes (fun r c l => { r with bkgdColor := c, bkgdLanes := l }) s
  | .frgdColor => packedColor v s.regs.frgdLanes (fun r c l => { r with frgdColor := c, frgdLanes := l }) s
  | .wrtMask => packedColor v s.regs.wrtLanes (fun r c l => { r with wrtMask := c, wrtLanes := l }) s
  | .rdMask => packedColor v s.regs.rdLanes (fun r c l => { r with rdMask := c, rdLanes := l }) s
  | .colorCmp => packedColor v s.regs.cmpLanes (fun r c l => { r with colorCmp := c, cmpLanes := l }) s
  | .mix => mapRegs (fun r => { r with bkgdMix := v.extractLsb' 0 16, frgdMix := v.extractLsb' 16 16 }) s
  | .scissorsTl => mapRegs (fun r => (r.setMf 1 (v.extractLsb' 0 12)).setMf 2 (v.extractLsb' 16 12)) s
  | .scissorsBr => mapRegs (fun r => (r.setMf 3 (v.extractLsb' 0 12)).setMf 4 (v.extractLsb' 16 12)) s
  | .pixCntlMisc2 => mapRegs (fun r => (r.setMf 0xA (v.extractLsb' 0 12)).setMf 0xD (v.extractLsb' 16 12)) s
  | .multMiscRdsel => mapRegs (fun r => (r.setMf 0xE (v.extractLsb' 0 12)).setMf 0xF (v.extractLsb' 16 12)) s

/-- `Dispatch`: the effect of one write on what its address reaches (R150). An open-bus write changes nothing
(R112). -/
def dispatch (t : Target) (w : Width) (v : Word) (s : State) : Result :=
  match t with
  | .reg r part => writeReg r part v s
  | .packed k => .next (writePacked k v s)
  | .pix _ => writePix (valueBytes v 0 (widthBytes w)) s
  | .unmapped => .next s
  | .streams => .refused .streamsEngine

/-! ### ReadValue (R170 to R176) -/

/-- The 16-bit value a stored register reads as: its low 16 bits, whatever its width (R113, D11). R171 starts a colour
or mask register's lanes at the bit `h` that R156 writes at; D11, which both rules cite, wins (assumption log entry 6). -/
def storedHalf (r : PortReg) (g : Regs) : Half :=
  match r with
  | .subsys => 0
  | .advfunc => g.advfunc
  | .curY => g.curY.setWidth 16
  | .curX => g.curX.setWidth 16
  | .destyAxstp => g.destyAxstp.setWidth 16
  | .destxDiastp => g.destxDiastp.setWidth 16
  | .errTerm => g.errTerm.setWidth 16
  | .majAxisPcnt => g.majAxisPcnt.setWidth 16
  | .cmd => 0
  | .shortStroke => g.shortStroke
  | .bkgdColor => g.bkgdColor.setWidth 16
  | .frgdColor => g.frgdColor.setWidth 16
  | .wrtMask => g.wrtMask.setWidth 16
  | .rdMask => g.rdMask.setWidth 16
  | .colorCmp => g.colorCmp.setWidth 16
  | .bkgdMix => g.bkgdMix
  | .frgdMix => g.frgdMix
  | .multifunc => 0
  | .curY2 => g.curY2.setWidth 16
  | .curX2 => g.curX2.setWidth 16
  | .desty2 => g.desty2.setWidth 16
  | .destx2 => g.destx2.setWidth 16

/-- The multifunction read pointer, `MULTIFUNC[0xF][3:0]` (R48). -/
def Regs.readPtr (r : Regs) : BitVec 4 := (r.mf 0xF).extractLsb' 0 4

/-- Advance the read pointer modulo 16; the entry's other bits stay (R48, R172). -/
def Regs.bumpPtr (r : Regs) : Regs := r.setMf 0xF ((r.mf 0xF).extractLsb' 4 8 ++ (r.readPtr + 1))

/-- Read `MULTIFUNC`: the entry the pointer selects; the pointer advances on a 16-bit or high-byte read
(R172). -/
def readMultifunc (part : RegPart) (s : State) : Word × State :=
  let v : Half := (s.regs.mf s.regs.readPtr).setWidth 16
  (readPart part v,
    match part with
    | .lo => s
    | .hi => mapRegs Regs.bumpPtr s
    | .word => mapRegs Regs.bumpPtr s)

/-- Read a part of a port register (R113, R171 to R174). -/
def readReg (r : PortReg) (part : RegPart) (s : State) : Word × State :=
  match r with
  | .subsys => (readPart part s.subsysStatWord, s)
  | .cmd => (readPart part s.gpStat, s)
  | .multifunc => readMultifunc part s
  | r => (readPart part (storedHalf r s.regs), s)

/-- Read a packed register: its fields in the bit positions its write takes them from, other bits 0 (R176). -/
def readPacked (k : PackedReg) (r : Regs) : Word :=
  match k with
  | .bkgdColor => r.bkgdColor
  | .frgdColor => r.frgdColor
  | .wrtMask => r.wrtMask
  | .rdMask => r.rdMask
  | .colorCmp => r.colorCmp
  | .mix => r.frgdMix ++ r.bkgdMix
  | .scissorsTl => (r.mf 2).setWidth 16 ++ (r.mf 1).setWidth 16
  | .scissorsBr => (r.mf 4).setWidth 16 ++ (r.mf 3).setWidth 16
  | .pixCntlMisc2 => (r.mf 0xD).setWidth 16 ++ (r.mf 0xA).setWidth 16
  | .multMiscRdsel => (r.mf 0xF).setWidth 16 ++ (r.mf 0xE).setWidth 16

/-- `ReadValue`: the value a read returns and the state after it; open bus reads all ones (R112, R170). -/
def readValue (t : Target) (w : Width) (s : State) : Word × State :=
  match t with
  | .reg r part => readReg r part s
  | .packed k => (readPacked k s.regs, s)
  | .pix lane => readPix lane 0 (widthBytes w) s
  | .unmapped => (openBus w, s)
  | .streams => (openBus w, s)

end Sys2Proof.Machine
end

