-- ==== Sys2Proof/Machine/Fifo.lean ====
section
/-!
DEFINITION. The FIFO command queue (spec/41_fifo.md): which writes are queued, the entry, and the engine
agent's drain step.
-/
namespace Sys2Proof.Machine

/-- `Queued(r)`: the column "queued" of R110; pixel-transfer and packed writes are queued (R150, R191). -/
def queueable : Target → Bool
  | .reg .subsys _ => false
  | .reg .advfunc _ => false
  | .reg _ _ => true
  | .packed _ => true
  | .pix _ => true
  | .unmapped => false
  | .streams => false

/-- Writes of queued registers go into the FIFO: FIFO mode and the 8514 enable bit (R150, R191). -/
def State.queuing (s : State) : Bool := s.enableFifo && s.regs.advfunc.getLsbD 0

/-- Type tag of a write (R145). -/
def typeTag (sp : Space) (w : Width) : Byte :=
  match sp, w with
  | .io, .w8 => 4
  | .io, .w16 => 5
  | .io, .w32 => 6
  | _, .w8 => 1
  | _, .w16 => 2
  | _, .w32 => 3

/-- The write is a packed one (R117, R118). -/
def isPacked : Target → Bool
  | .packed _ => true
  | .reg _ _ => false
  | .pix _ => false
  | .unmapped => false
  | .streams => false

/-- The entry of a write that reaches `t`: tag in bits 31:24, address in bits 23:0, and whether it is packed (R61,
R192). -/
def entryOf (sp : Space) (a : Nat) (w : Width) (v : Word) (t : Target) : FifoEntry :=
  ⟨typeTag sp w ++ BitVec.ofNat 24 a, v &&& widthMask w, isPacked t⟩

/-- Put an entry into the FIFO (R192). -/
def pushEntry (e : FifoEntry) (s : State) : State := { s with fifo := s.fifo.push e }

/-- Width and space of a type tag; a tag R145 does not name has none (U16; assumption log entry 21). -/
def tagForm (tag : Byte) : Option (Bool × Width) :=
  match tag.toNat with
  | 1 => some (true, .w8)
  | 2 => some (true, .w16)
  | 3 => some (true, .w32)
  | 4 => some (false, .w8)
  | 5 => some (false, .w16)
  | 6 => some (false, .w32)
  | _ => none

/-- What a queued entry's address reaches: a window offset or a port, by its tag, a packed register only where the
host's write was a packed one (R145, R194, R402). -/
def entryTarget (cfg : Config) (mmio packed : Bool) (a : Nat) (w : Width) : Target :=
  if mmio then resolveWindow cfg packed a w else resolvePort cfg.cap a w

/-- Apply a queued entry through the same path as a direct write (R101, R194). -/
def applyEntry (e : FifoEntry) (s : State) : Result :=
  match tagForm (e.addrType.extractLsb' 24 8) with
  | none => .next s
  | some (mmio, w) =>
    dispatch (entryTarget s.cfg mmio e.packed (e.addrType.extractLsb' 0 24).toNat w) w e.val s

/-- Pop the head of the queue; the engine is busy with it (R194). -/
def popEntry (s : State) : State :=
  { s with fifo := { s.fifo with readIdx := s.fifo.readIdx + 1, busy := true } }

/-- The end of a drain step: not busy, and `FIFO_EMPTY` where the queue is empty (R194, R405). -/
def endDrain (s : State) : State :=
  let t : State := { s with fifo := { s.fifo with busy := false } }
  if t.fifo.entries = 0 then raiseIrq fifoEmpty t else t

/-- `Drain()`: one step of the engine agent (R194). -/
def drain (s : State) : Result := thenNext (applyEntry s.fifo.head (popEntry s)) (fun t => .next (endDrain t))

end Sys2Proof.Machine
end

