-- ==== Sys2Proof/Machine/HostBus.lean ====
section
/-!
DEFINITION. The host agent's bus operations: `HostWrite` and `HostRead` (spec/40_bus_access.md R150, R170),
their parts, and the holds (spec/41_fifo.md R192, R197, R198).

Every part is decided once, when the host comes to it: what it reaches, and whether it is queued, direct or free
(R102, R190). A held part stands in `pending` with its decision; the host has no step until the condition it waits
for holds (R13). The parts of a split access follow one another as separate steps (R95).
-/
namespace Sys2Proof.Machine

/-- Leave a part for a later step of the host. -/
def holdPart (p : Part) (s : State) : State := { s with host := { s.host with pending := p :: s.host.pending } }

/-- A completed host read: its value goes to the event history (assumption log entry 24). -/
def returnRead (w : Width) (v : Word) (s : State) : State :=
  { s with host := { s.host with history := .readReturned w v :: s.host.history } }

/-- How an access that reaches `t` is performed, decided with the signals as they stand (R102, R190): a queued
write into the FIFO (R192), a direct write once the FIFO is drained (R198), a read in FIFO mode once it is drained
(R197). What reaches nothing waits for nothing. -/
def State.routeOf (s : State) (t : Target) (act : BusAction) : Route :=
  match t with
  | .unmapped => .atOnce
  | .streams => .atOnce
  | t =>
    match act with
    | .write _ _ => if queueable t && s.queuing then .queued else .drained
    | .read _ => if s.enableFifo then .drained else .atOnce

/-- What the host decides of a part when it comes to it. -/
def State.decideNow (s : State) (p : Part) : Decision :=
  let t := resolve s.cfg s.inputs p.space p.addr p.act.width
  ⟨t, s.routeOf t p.act⟩

/-- What is decided of a part: what the host decided when it came to it, whatever the signals are since (assumption
log entry 34). -/
def State.decisionOf (s : State) (p : Part) : Decision := p.decided.getD (s.decideNow p)

/-- A route waits: for room in the FIFO, or until it is drained (R192, R102, R103). -/
def Fifo.blocks (f : Fifo) : Route → Bool
  | .queued => f.full
  | .drained => !f.drained
  | .atOnce => false

/-- Whether a part is held when the host comes to it, or is held still. -/
def State.held (s : State) (p : Part) : Bool := s.fifo.blocks (s.decisionOf p).route

/-- The host has come to a part and waits: it has no step until the hold is lifted (R13). -/
def State.waits (s : State) (p : Part) : Bool := p.decided.isSome && s.held p

/-- The effect of a write part that is not held: into the FIFO, or dispatched (R150). -/
def writePart (p : Part) (d : Decision) (w : Width) (v : Word) (s : State) : Result :=
  match d.route with
  | .queued => .next (pushEntry (entryOf p.space p.addr w v d.target) s)
  | .drained => dispatch d.target w v s
  | .atOnce => dispatch d.target w v s

/-- What a split read has gathered once a part has returned `v`. -/
def gather (p : Part) (v : Word) (acc : Word) : Word :=
  if p.lane = 0 then v else acc ||| (v <<< (8 * p.lane))

/-- The effect of a read part that is not held: the last part returns the whole value to the host (R170). -/
def readAccess (p : Part) (t : Target) (w : Width) (s : State) : Result :=
  match t with
  | .streams => .refused .streamsEngine
  | t =>
    let r := readValue t w s
    let v := gather p r.1 s.host.acc
    if p.last then .next (returnRead p.whole v r.2)
    else .next { r.2 with host := { r.2.host with acc := v } }

/-- A part the host has come to, with what it decided. -/
def Part.decideAs (p : Part) (d : Decision) : Part := { p with decided := some d }

/-- One step of the host on a part of an access: while it is held it waits, with what was decided of it. -/
def runPart (p : Part) (s : State) : Result :=
  let d := s.decisionOf p
  if s.held p then .next (holdPart (p.decideAs d) s)
  else
    match p.act with
    | .write w v => writePart p d w v s
    | .read w => readAccess p d.target w s

/-- An access that does not reach the block: a write is dropped, a read returns all ones (R89). -/
def missAccess (act : BusAction) (s : State) : State :=
  match act with
  | .write _ _ => s
  | .read w => returnRead w (openBus w) s

/-- Put the remaining parts of an access before the parts already waiting. -/
def pushParts (ps : List Part) (s : State) : State :=
  { s with host := { s.host with pending := ps ++ s.host.pending } }

/-- `HostWrite` and `HostRead` (R150, R170): issue an access and perform its first part. -/
def hostAccess (sp : Space) (a : Nat) (act : BusAction) (s : State) : Result :=
  if reaches s.cfg s.inputs sp then
    match accessParts s sp (aliased s.cfg sp a) act with
    | [] => .next s
    | p :: rest => runPart p (pushParts rest s)
  else .next (missAccess act s)

/-- The host can make a step: it does not wait for a part, and a part is left or the program goes on (R13, R15). -/
def State.hostReady (s : State) : Bool :=
  match s.host.pending with
  | p :: _ => !s.waits p
  | [] => !s.host.program.isEmpty

/-- The host access under way is held (R450): its hold is in force now, not merely at an earlier step (assumption log
entry 25). -/
def State.hostHeld (s : State) : Bool :=
  match s.host.pending with
  | p :: _ => s.waits p
  | [] => false

/-- The host goes on with the next part of the access under way. -/
def advancePart (s : State) : Result :=
  match s.host.pending with
  | p :: rest => runPart p { s with host := { s.host with pending := rest } }
  | [] => .next s

end Sys2Proof.Machine
end

