-- ==== Sys2Proof/Machine/Commands.lean ====
section
/-!
DEFINITION. The meanings of the twelve command rows and of the short-stroke row. A command is the 16-bit write of
its `CMD` word at 0x9AE8 (spec/30_encoding.md R120, R121): the write starts the operation of its class
(spec/40_bus_access.md R153, R154), whose rule each definition cites. A stroke is the byte write of R126 and R155.
-/
namespace Sys2Proof.Machine

/-- The 16-bit write of a `CMD` word (R153). -/
def commandWrite (sp : Space) (c : Half) (s : State) : Result :=
  hostAccess sp (portOf .cmd) (.write .w16 (c.setWidth 32)) s

/-- The byte write of a stroke, at the low or the high byte of `SHORT_STROKE` (R155). -/
def strokeWrite (sp : Space) (hi : Bool) (b : Byte) (s : State) : Result :=
  hostAccess sp (portAddr .shortStroke hi) (.write .w8 (b.setWidth 32)) s

/-- `NOP`: the NOP class (R250). -/
def execNop (sp : Space) (o : CmdOpts) (s : State) : Result := commandWrite sp (cmdWord 0 o) s

/-- `LINE`: a Bresenham line (R255). -/
def execLine (sp : Space) (o : CmdOpts) (s : State) : Result := commandWrite sp (cmdWord 1 o) s

/-- `LINE_RADIAL`: a radial line (R260). -/
def execLineRadial (sp : Space) (o : CmdOpts) (s : State) : Result := commandWrite sp (cmdWord 1 o) s

/-- `RECT`: a rectangle fill (R280). -/
def execRect (sp : Space) (o : CmdOpts) (s : State) : Result := commandWrite sp (cmdWord 2 o) s

/-- `RECT_CPU`: a rectangle fed by the CPU (R281). -/
def execRectCpu (sp : Space) (o : CmdOpts) (s : State) : Result := commandWrite sp (cmdWord 2 o) s

/-- `RECT_READ`: a rectangle read back to the CPU (R285). -/
def execRectRead (sp : Space) (o : CmdOpts) (s : State) : Result := commandWrite sp (cmdWord 2 o) s

/-- `POLY_SOLID`: a solid polygon (R290). -/
def execPolySolid (sp : Space) (o : CmdOpts) (s : State) : Result := commandWrite sp (cmdWord 3 o) s

/-- `POLY_PAT`: a pattern polygon (R291). -/
def execPolyPat (sp : Space) (o : CmdOpts) (s : State) : Result := commandWrite sp (cmdWord 3 o) s

/-- `ROPBLT`: a ROPBlt (R320). -/
def execRopblt (sp : Space) (o : CmdOpts) (s : State) : Result := commandWrite sp (cmdWord 4 o) s

/-- `POLYLINE`: a two-point line (R265). -/
def execPolyline (sp : Space) (o : CmdOpts) (s : State) : Result := commandWrite sp (cmdWord 5 o) s

/-- `BITBLT`: a BitBlt (R310). -/
def execBitblt (sp : Space) (o : CmdOpts) (s : State) : Result := commandWrite sp (cmdWord 6 o) s

/-- `PATFILL`: an 8x8 pattern fill (R315). -/
def execPatfill (sp : Space) (o : CmdOpts) (s : State) : Result := commandWrite sp (cmdWord 7 o) s

/-- `SSV`: one short stroke (R252). -/
def execSsv (sp : Space) (hi : Bool) (dir : BitVec 3) (draw : Bool) (len : BitVec 4) (s : State) : Result :=
  strokeWrite sp hi (strokeByte dir draw len) s

end Sys2Proof.Machine
end

