-- ==== Sys2Proof/Machine/Packed.lean ====
section
/-!
DEFINITION. The meanings of the packed rows (spec/30_encoding.md R117): a 32-bit write of all fields at once
(spec/40_bus_access.md R164) and a 32-bit read of them assembled the same way (R176), in either window. Where
packed registers are not in force the access splits into the port mirror's parts (spec/20_memory.md R86, R115).
-/
namespace Sys2Proof.Machine

/-- The 32-bit write at a packed offset (R164). -/
def packedWrite (k : PackedReg) (win : Window) (v : Word) (s : State) : Result :=
  hostAccess win.space (packedOffset k) (.write .w32 v) s

/-- The 32-bit read at a packed offset (R176). -/
def packedRead (k : PackedReg) (win : Window) (s : State) : Result :=
  hostAccess win.space (packedOffset k) (.read .w32) s

/-- `MW32_PK_BKGD_COLOR` (R117, R164). -/
def execMw32PkBkgdColor (win : Window) (v : Word) (s : State) : Result := packedWrite .bkgdColor win v s

/-- `MR32_PK_BKGD_COLOR` (R117, R176). -/
def execMr32PkBkgdColor (win : Window) (s : State) : Result := packedRead .bkgdColor win s

/-- `MW32_PK_FRGD_COLOR` (R117, R164). -/
def execMw32PkFrgdColor (win : Window) (v : Word) (s : State) : Result := packedWrite .frgdColor win v s

/-- `MR32_PK_FRGD_COLOR` (R117, R176). -/
def execMr32PkFrgdColor (win : Window) (s : State) : Result := packedRead .frgdColor win s

/-- `MW32_PK_WRT_MASK` (R117, R164). -/
def execMw32PkWrtMask (win : Window) (v : Word) (s : State) : Result := packedWrite .wrtMask win v s

/-- `MR32_PK_WRT_MASK` (R117, R176). -/
def execMr32PkWrtMask (win : Window) (s : State) : Result := packedRead .wrtMask win s

/-- `MW32_PK_RD_MASK` (R117, R164). -/
def execMw32PkRdMask (win : Window) (v : Word) (s : State) : Result := packedWrite .rdMask win v s

/-- `MR32_PK_RD_MASK` (R117, R176). -/
def execMr32PkRdMask (win : Window) (s : State) : Result := packedRead .rdMask win s

/-- `MW32_PK_COLOR_CMP` (R117, R164). -/
def execMw32PkColorCmp (win : Window) (v : Word) (s : State) : Result := packedWrite .colorCmp win v s

/-- `MR32_PK_COLOR_CMP` (R117, R176). -/
def execMr32PkColorCmp (win : Window) (s : State) : Result := packedRead .colorCmp win s

/-- `MW32_PK_MIX` (R117, R164). -/
def execMw32PkMix (win : Window) (v : Word) (s : State) : Result := packedWrite .mix win v s

/-- `MR32_PK_MIX` (R117, R176). -/
def execMr32PkMix (win : Window) (s : State) : Result := packedRead .mix win s

/-- `MW32_PK_SCISSORS_TL` (R117, R164). -/
def execMw32PkScissorsTl (win : Window) (v : Word) (s : State) : Result := packedWrite .scissorsTl win v s

/-- `MR32_PK_SCISSORS_TL` (R117, R176). -/
def execMr32PkScissorsTl (win : Window) (s : State) : Result := packedRead .scissorsTl win s

/-- `MW32_PK_SCISSORS_BR` (R117, R164). -/
def execMw32PkScissorsBr (win : Window) (v : Word) (s : State) : Result := packedWrite .scissorsBr win v s

/-- `MR32_PK_SCISSORS_BR` (R117, R176). -/
def execMr32PkScissorsBr (win : Window) (s : State) : Result := packedRead .scissorsBr win s

/-- `MW32_PK_PIX_CNTL_MISC2` (R117, R164). -/
def execMw32PkPixCntlMisc2 (win : Window) (v : Word) (s : State) : Result := packedWrite .pixCntlMisc2 win v s

/-- `MR32_PK_PIX_CNTL_MISC2` (R117, R176). -/
def execMr32PkPixCntlMisc2 (win : Window) (s : State) : Result := packedRead .pixCntlMisc2 win s

/-- `MW32_PK_MULT_MISC_RDSEL` (R117, R164). -/
def execMw32PkMultMiscRdsel (win : Window) (v : Word) (s : State) : Result := packedWrite .multMiscRdsel win v s

/-- `MR32_PK_MULT_MISC_RDSEL` (R117, R176). -/
def execMr32PkMultMiscRdsel (win : Window) (s : State) : Result := packedRead .multMiscRdsel win s

end Sys2Proof.Machine
end

