-- ==== Sys2Proof/Machine/PortReads.lean ====
section
/-!
DEFINITION. The meanings of the port read rows `IN_x` (spec/30_encoding.md R110, R113): a read of 8, 16 or 32 bits
at the register's port or at the byte after it, as `HostRead` handles it (spec/40_bus_access.md R170).
-/
namespace Sys2Proof.Machine

/-- A read at a byte of a port register (R84, R170). -/
def portRead (r : PortReg) (odd : Bool) (w : Width) (s : State) : Result :=
  hostAccess .io (portAddr r odd) (.read w) s

/-- `IN_SUBSYS_STAT` (R174). -/
def execInSubsysStat (odd : Bool) (w : Width) (s : State) : Result := portRead .subsys odd w s

/-- `IN_ADVFUNC_CNTL` (R171). -/
def execInAdvfuncCntl (odd : Bool) (w : Width) (s : State) : Result := portRead .advfunc odd w s

/-- `IN_CUR_Y` (R171). -/
def execInCurY (odd : Bool) (w : Width) (s : State) : Result := portRead .curY odd w s

/-- `IN_CUR_X` (R171). -/
def execInCurX (odd : Bool) (w : Width) (s : State) : Result := portRead .curX odd w s

/-- `IN_DESTY_AXSTP` (R171). -/
def execInDestyAxstp (odd : Bool) (w : Width) (s : State) : Result := portRead .destyAxstp odd w s

/-- `IN_DESTX_DIASTP` (R171). -/
def execInDestxDiastp (odd : Bool) (w : Width) (s : State) : Result := portRead .destxDiastp odd w s

/-- `IN_ERR_TERM` (R171). -/
def execInErrTerm (odd : Bool) (w : Width) (s : State) : Result := portRead .errTerm odd w s

/-- `IN_MAJ_AXIS_PCNT` (R171). -/
def execInMajAxisPcnt (odd : Bool) (w : Width) (s : State) : Result := portRead .majAxisPcnt odd w s

/-- `IN_GP_STAT` (R173). -/
def execInGpStat (odd : Bool) (w : Width) (s : State) : Result := portRead .cmd odd w s

/-- `IN_SHORT_STROKE` (R171). -/
def execInShortStroke (odd : Bool) (w : Width) (s : State) : Result := portRead .shortStroke odd w s

/-- `IN_BKGD_COLOR` (R171). -/
def execInBkgdColor (odd : Bool) (w : Width) (s : State) : Result := portRead .bkgdColor odd w s

/-- `IN_FRGD_COLOR` (R171). -/
def execInFrgdColor (odd : Bool) (w : Width) (s : State) : Result := portRead .frgdColor odd w s

/-- `IN_WRT_MASK` (R171). -/
def execInWrtMask (odd : Bool) (w : Width) (s : State) : Result := portRead .wrtMask odd w s

/-- `IN_RD_MASK` (R171). -/
def execInRdMask (odd : Bool) (w : Width) (s : State) : Result := portRead .rdMask odd w s

/-- `IN_COLOR_CMP` (R171). -/
def execInColorCmp (odd : Bool) (w : Width) (s : State) : Result := portRead .colorCmp odd w s

/-- `IN_BKGD_MIX` (R171). -/
def execInBkgdMix (odd : Bool) (w : Width) (s : State) : Result := portRead .bkgdMix odd w s

/-- `IN_FRGD_MIX` (R171). -/
def execInFrgdMix (odd : Bool) (w : Width) (s : State) : Result := portRead .frgdMix odd w s

/-- `IN_MULTIFUNC` (R172). -/
def execInMultifunc (odd : Bool) (w : Width) (s : State) : Result := portRead .multifunc odd w s

/-- `IN_PIX_TRANS`: a read of the pixel-transfer port at one of its four bytes (R175). -/
def execInPixTrans (lane : BitVec 2) (w : Width) (s : State) : Result :=
  hostAccess .io (pixPortLo + lane.toNat) (.read w) s

/-- `IN_CUR_Y2` (R171). -/
def execInCurY2 (odd : Bool) (w : Width) (s : State) : Result := portRead .curY2 odd w s

/-- `IN_CUR_X2` (R171). -/
def execInCurX2 (odd : Bool) (w : Width) (s : State) : Result := portRead .curX2 odd w s

/-- `IN_DESTY2` (R171). -/
def execInDesty2 (odd : Bool) (w : Width) (s : State) : Result := portRead .desty2 odd w s

/-- `IN_DESTX2` (R171). -/
def execInDestx2 (odd : Bool) (w : Width) (s : State) : Result := portRead .destx2 odd w s

end Sys2Proof.Machine
end

