-- ==== Sys2Proof/Machine/PortWrites.lean ====
section
/-!
DEFINITION. The meanings of the port write rows `OUT_x` (spec/30_encoding.md R110): a write of 8, 16 or 32 bits at
the register's port or at the byte after it, as `HostWrite` handles it (spec/40_bus_access.md R150).
-/
namespace Sys2Proof.Machine

/-- A write at a byte of a port register (R84, R150). -/
def portWrite (r : PortReg) (odd : Bool) (w : Width) (v : Word) (s : State) : Result :=
  hostAccess .io (portAddr r odd) (.write w v) s

/-- `OUT_SUBSYS_CNTL` (R166). -/
def execOutSubsysCntl (odd : Bool) (w : Width) (v : Word) (s : State) : Result := portWrite .subsys odd w v s

/-- `OUT_ADVFUNC_CNTL` (R167). -/
def execOutAdvfuncCntl (odd : Bool) (w : Width) (v : Word) (s : State) : Result := portWrite .advfunc odd w v s

/-- `OUT_CUR_Y` (R151). -/
def execOutCurY (odd : Bool) (w : Width) (v : Word) (s : State) : Result := portWrite .curY odd w v s

/-- `OUT_CUR_X` (R151). -/
def execOutCurX (odd : Bool) (w : Width) (v : Word) (s : State) : Result := portWrite .curX odd w v s

/-- `OUT_DESTY_AXSTP` (R151). -/
def execOutDestyAxstp (odd : Bool) (w : Width) (v : Word) (s : State) : Result := portWrite .destyAxstp odd w v s

/-- `OUT_DESTX_DIASTP` (R151). -/
def execOutDestxDiastp (odd : Bool) (w : Width) (v : Word) (s : State) : Result := portWrite .destxDiastp odd w v s

/-- `OUT_ERR_TERM` (R151). -/
def execOutErrTerm (odd : Bool) (w : Width) (v : Word) (s : State) : Result := portWrite .errTerm odd w v s

/-- `OUT_MAJ_AXIS_PCNT` (R152). -/
def execOutMajAxisPcnt (odd : Bool) (w : Width) (v : Word) (s : State) : Result := portWrite .majAxisPcnt odd w v s

/-- `OUT_CMD` (R153). -/
def execOutCmd (odd : Bool) (w : Width) (v : Word) (s : State) : Result := portWrite .cmd odd w v s

/-- `OUT_SHORT_STROKE` (R155). -/
def execOutShortStroke (odd : Bool) (w : Width) (v : Word) (s : State) : Result := portWrite .shortStroke odd w v s

/-- `OUT_BKGD_COLOR` (R156). -/
def execOutBkgdColor (odd : Bool) (w : Width) (v : Word) (s : State) : Result := portWrite .bkgdColor odd w v s

/-- `OUT_FRGD_COLOR` (R156). -/
def execOutFrgdColor (odd : Bool) (w : Width) (v : Word) (s : State) : Result := portWrite .frgdColor odd w v s

/-- `OUT_WRT_MASK` (R156). -/
def execOutWrtMask (odd : Bool) (w : Width) (v : Word) (s : State) : Result := portWrite .wrtMask odd w v s

/-- `OUT_RD_MASK` (R156). -/
def execOutRdMask (odd : Bool) (w : Width) (v : Word) (s : State) : Result := portWrite .rdMask odd w v s

/-- `OUT_COLOR_CMP` (R156). -/
def execOutColorCmp (odd : Bool) (w : Width) (v : Word) (s : State) : Result := portWrite .colorCmp odd w v s

/-- `OUT_BKGD_MIX` (R158). -/
def execOutBkgdMix (odd : Bool) (w : Width) (v : Word) (s : State) : Result := portWrite .bkgdMix odd w v s

/-- `OUT_FRGD_MIX` (R158). -/
def execOutFrgdMix (odd : Bool) (w : Width) (v : Word) (s : State) : Result := portWrite .frgdMix odd w v s

/-- `OUT_MULTIFUNC` (R160). -/
def execOutMultifunc (odd : Bool) (w : Width) (v : Word) (s : State) : Result := portWrite .multifunc odd w v s

/-- `OUT_PIX_TRANS`: a write of the pixel-transfer port at one of its four bytes (R162). -/
def execOutPixTrans (lane : BitVec 2) (w : Width) (v : Word) (s : State) : Result :=
  hostAccess .io (pixPortLo + lane.toNat) (.write w v) s

/-- `OUT_CUR_Y2` (R151). -/
def execOutCurY2 (odd : Bool) (w : Width) (v : Word) (s : State) : Result := portWrite .curY2 odd w v s

/-- `OUT_CUR_X2` (R151). -/
def execOutCurX2 (odd : Bool) (w : Width) (v : Word) (s : State) : Result := portWrite .curX2 odd w v s

/-- `OUT_DESTY2` (R151). -/
def execOutDesty2 (odd : Bool) (w : Width) (v : Word) (s : State) : Result := portWrite .desty2 odd w v s

/-- `OUT_DESTX2` (R151). -/
def execOutDestx2 (odd : Bool) (w : Width) (v : Word) (s : State) : Result := portWrite .destx2 odd w v s

end Sys2Proof.Machine
end

