-- ==== Sys2Proof/Machine/Windows.lean ====
section
/-!
DEFINITION. The meanings of the rows that name an address range: an unmapped port and the ranges of the two
memory-mapped windows (spec/30_encoding.md R112, R115, R116; spec/20_memory.md R92).
-/
namespace Sys2Proof.Machine

/-- `IO_UNMAPPED`: an access at a port outside R110; open bus where no second name maps it (R111, R112). -/
def execIoUnmapped (port : BitVec 16) (act : BusAction) (s : State) : Result := hostAccess .io port.toNat act s

/-- `MMIO_PIX_TRANS`: an access at offsets 0x0000 to 0x7FFF of a window, the pixel-transfer port (R115, R116). -/
def execMmioPixTrans (win : Window) (off : BitVec 17) (act : BusAction) (s : State) : Result :=
  hostAccess win.space off.toNat act s

/-- `MMIO_REG`: an access at offsets 0x8000 to 0xFFFF of a window, the mirror of the ports (R115, R116). -/
def execMmioReg (win : Window) (off : BitVec 17) (act : BusAction) (s : State) : Result :=
  hostAccess win.space off.toNat act s

/-- `MMIO_UNMAPPED`: an access at offsets 0x10000 to 0x17FFF of the new window, open bus (R116, R112). -/
def execMmioUnmapped (off : BitVec 17) (act : BusAction) (s : State) : Result :=
  hostAccess .newMmio off.toNat act s

/-- `MMIO_STREAMS`: an access at offsets 0x18000 to 0x1FFFF of the new window. Where it reaches the block it is
refused: it belongs to the streams engine, whose effect the spec does not give (R92); where the window is not
enabled it is dropped, a read returning all ones (R89). -/
def execMmioStreams (off : BitVec 17) (act : BusAction) (s : State) : Result :=
  hostAccess .newMmio off.toNat act s

end Sys2Proof.Machine
end

