-- ==== Sys2Proof/Machine/Dispatch.lean ====
section
/-!
DEFINITION. The dispatch of a bus operation to its meaning: one arm per constructor.
-/
namespace Sys2Proof.Machine

def exec (i : Instr) (s : State) : Host.Outcome State Fault Refusal :=
  match i with
  | .nop sp o => Sys2Proof.Machine.execNop sp o s
  | .line sp o => Sys2Proof.Machine.execLine sp o s
  | .lineRadial sp o => Sys2Proof.Machine.execLineRadial sp o s
  | .rect sp o => Sys2Proof.Machine.execRect sp o s
  | .rectCpu sp o => Sys2Proof.Machine.execRectCpu sp o s
  | .rectRead sp o => Sys2Proof.Machine.execRectRead sp o s
  | .polySolid sp o => Sys2Proof.Machine.execPolySolid sp o s
  | .polyPat sp o => Sys2Proof.Machine.execPolyPat sp o s
  | .ropblt sp o => Sys2Proof.Machine.execRopblt sp o s
  | .polyline sp o => Sys2Proof.Machine.execPolyline sp o s
  | .bitblt sp o => Sys2Proof.Machine.execBitblt sp o s
  | .patfill sp o => Sys2Proof.Machine.execPatfill sp o s
  | .ssv sp hi dir draw len => Sys2Proof.Machine.execSsv sp hi dir draw len s
  | .outSubsysCntl odd w v => Sys2Proof.Machine.execOutSubsysCntl odd w v s
  | .inSubsysStat odd w => Sys2Proof.Machine.execInSubsysStat odd w s
  | .outAdvfuncCntl odd w v => Sys2Proof.Machine.execOutAdvfuncCntl odd w v s
  | .inAdvfuncCntl odd w => Sys2Proof.Machine.execInAdvfuncCntl odd w s
  | .outCurY odd w v => Sys2Proof.Machine.execOutCurY odd w v s
  | .inCurY odd w => Sys2Proof.Machine.execInCurY odd w s
  | .outCurX odd w v => Sys2Proof.Machine.execOutCurX odd w v s
  | .inCurX odd w => Sys2Proof.Machine.execInCurX odd w s
  | .outDestyAxstp odd w v => Sys2Proof.Machine.execOutDestyAxstp odd w v s
  | .inDestyAxstp odd w => Sys2Proof.Machine.execInDestyAxstp odd w s
  | .outDestxDiastp odd w v => Sys2Proof.Machine.execOutDestxDiastp odd w v s
  | .inDestxDiastp odd w => Sys2Proof.Machine.execInDestxDiastp odd w s
  | .outErrTerm odd w v => Sys2Proof.Machine.execOutErrTerm odd w v s
  | .inErrTerm odd w => Sys2Proof.Machine.execInErrTerm odd w s
  | .outMajAxisPcnt odd w v => Sys2Proof.Machine.execOutMajAxisPcnt odd w v s
  | .inMajAxisPcnt odd w => Sys2Proof.Machine.execInMajAxisPcnt odd w s
  | .outCmd odd w v => Sys2Proof.Machine.execOutCmd odd w v s
  | .inGpStat odd w => Sys2Proof.Machine.execInGpStat odd w s
  | .outShortStroke odd w v => Sys2Proof.Machine.execOutShortStroke odd w v s
  | .inShortStroke odd w => Sys2Proof.Machine.execInShortStroke odd w s
  | .outBkgdColor odd w v => Sys2Proof.Machine.execOutBkgdColor odd w v s
  | .inBkgdColor odd w => Sys2Proof.Machine.execInBkgdColor odd w s
  | .outFrgdColor odd w v => Sys2Proof.Machine.execOutFrgdColor odd w v s
  | .inFrgdColor odd w => Sys2Proof.Machine.execInFrgdColor odd w s
  | .outWrtMask odd w v => Sys2Proof.Machine.execOutWrtMask odd w v s
  | .inWrtMask odd w => Sys2Proof.Machine.execInWrtMask odd w s
  | .outRdMask odd w v => Sys2Proof.Machine.execOutRdMask odd w v s
  | .inRdMask odd w => Sys2Proof.Machine.execInRdMask odd w s
  | .outColorCmp odd w v => Sys2Proof.Machine.execOutColorCmp odd w v s
  | .inColorCmp odd w => Sys2Proof.Machine.execInColorCmp odd w s
  | .outBkgdMix odd w v => Sys2Proof.Machine.execOutBkgdMix odd w v s
  | .inBkgdMix odd w => Sys2Proof.Machine.execInBkgdMix odd w s
  | .outFrgdMix odd w v => Sys2Proof.Machine.execOutFrgdMix odd w v s
  | .inFrgdMix odd w => Sys2Proof.Machine.execInFrgdMix odd w s
  | .outMultifunc odd w v => Sys2Proof.Machine.execOutMultifunc odd w v s
  | .inMultifunc odd w => Sys2Proof.Machine.execInMultifunc odd w s
  | .outPixTrans lane w v => Sys2Proof.Machine.execOutPixTrans lane w v s
  | .inPixTrans lane w => Sys2Proof.Machine.execInPixTrans lane w s
  | .outCurY2 odd w v => Sys2Proof.Machine.execOutCurY2 odd w v s
  | .inCurY2 odd w => Sys2Proof.Machine.execInCurY2 odd w s
  | .outCurX2 odd w v => Sys2Proof.Machine.execOutCurX2 odd w v s
  | .inCurX2 odd w => Sys2Proof.Machine.execInCurX2 odd w s
  | .outDesty2 odd w v => Sys2Proof.Machine.execOutDesty2 odd w v s
  | .inDesty2 odd w => Sys2Proof.Machine.execInDesty2 odd w s
  | .outDestx2 odd w v => Sys2Proof.Machine.execOutDestx2 odd w v s
  | .inDestx2 odd w => Sys2Proof.Machine.execInDestx2 odd w s
  | .ioUnmapped port act => Sys2Proof.Machine.execIoUnmapped port act s
  | .mmioPixTrans win off act => Sys2Proof.Machine.execMmioPixTrans win off act s
  | .mmioReg win off act => Sys2Proof.Machine.execMmioReg win off act s
  | .mw32PkBkgdColor win v => Sys2Proof.Machine.execMw32PkBkgdColor win v s
  | .mr32PkBkgdColor win => Sys2Proof.Machine.execMr32PkBkgdColor win s
  | .mw32PkFrgdColor win v => Sys2Proof.Machine.execMw32PkFrgdColor win v s
  | .mr32PkFrgdColor win => Sys2Proof.Machine.execMr32PkFrgdColor win s
  | .mw32PkWrtMask win v => Sys2Proof.Machine.execMw32PkWrtMask win v s
  | .mr32PkWrtMask win => Sys2Proof.Machine.execMr32PkWrtMask win s
  | .mw32PkRdMask win v => Sys2Proof.Machine.execMw32PkRdMask win v s
  | .mr32PkRdMask win => Sys2Proof.Machine.execMr32PkRdMask win s
  | .mw32PkColorCmp win v => Sys2Proof.Machine.execMw32PkColorCmp win v s
  | .mr32PkColorCmp win => Sys2Proof.Machine.execMr32PkColorCmp win s
  | .mw32PkMix win v => Sys2Proof.Machine.execMw32PkMix win v s
  | .mr32PkMix win => Sys2Proof.Machine.execMr32PkMix win s
  | .mw32PkScissorsTl win v => Sys2Proof.Machine.execMw32PkScissorsTl win v s
  | .mr32PkScissorsTl win => Sys2Proof.Machine.execMr32PkScissorsTl win s
  | .mw32PkScissorsBr win v => Sys2Proof.Machine.execMw32PkScissorsBr win v s
  | .mr32PkScissorsBr win => Sys2Proof.Machine.execMr32PkScissorsBr win s
  | .mw32PkPixCntlMisc2 win v => Sys2Proof.Machine.execMw32PkPixCntlMisc2 win v s
  | .mr32PkPixCntlMisc2 win => Sys2Proof.Machine.execMr32PkPixCntlMisc2 win s
  | .mw32PkMultMiscRdsel win v => Sys2Proof.Machine.execMw32PkMultMiscRdsel win v s
  | .mr32PkMultMiscRdsel win => Sys2Proof.Machine.execMr32PkMultMiscRdsel win s
  | .mmioUnmapped off act => Sys2Proof.Machine.execMmioUnmapped off act s
  | .mmioStreams off act => Sys2Proof.Machine.execMmioStreams off act s

end Sys2Proof.Machine
end

