-- ==== Sys2Proof/Machine/Schedule.lean ====
section
/-!
DEFINITION. The two agents' steps and the turns of the environment (spec/00_scope.md R15, R16; spec/41_fifo.md
R194, R195; spec/70_reset_and_hazards.md R450). The scheduling is free: the environment's choices stand in `sched`,
and after its end the agents follow one schedule R16 allows (assumption log entry 3).
-/
namespace Sys2Proof.Machine

/-- The host program after an operation has been taken from it. -/
def withProgram (bs : List Byte) (s : State) : State := { s with host := { s.host with program := bs } }

/-- The turns left. -/
def withSched (ts : List Turn) (s : State) : State := { s with host := { s.host with sched := ts } }

/-- The parts left of the access under way. -/
def withPending (ps : List Part) (s : State) : State := { s with host := { s.host with pending := ps } }

/-- Issue the next bus operation of the host program (R15, R100); the host has no step once its program has ended.
Bytes that are no record of an operation fault (entry 1). -/
def issueNext (s : State) : Result :=
  if s.host.program.isEmpty then .next s
  else
    match decode s.host.program with
    | .ok (i, rest) => exec i (withProgram rest s)
    | .error e => .fault (.malformedRecord e)

/-- A step of the host agent: the next part of the access under way, else the next operation (R15, R95). -/
def hostStep (s : State) : Result := if s.host.pending.isEmpty then issueNext s else advancePart s

/-- A step of the engine agent: one drain, or none while the FIFO is empty (R194, R195). -/
def engineStep (s : State) : Result := if 0 < s.fifo.entries then drain s else .next s

/-- A turn of the environment. A turn of an agent that has no step changes nothing. -/
def turnStep (t : Turn) (s : State) : Result :=
  match t with
  | .host => hostStep s
  | .engine => engineStep s
  | .deviceReset => .next (deviceReset s.hostHeld s)
  | .signals i => .next { s with inputs := i }

/-- The step where the environment chooses nothing: the host while it can go on, else the engine (R16). A machine
with nothing to do stays as it is (entry 27). -/
def autoStep (s : State) : Result := if s.hostReady then hostStep s else engineStep s

/-- One step of the machine. -/
def stepOnce (s : State) : Result :=
  match s.host.sched with
  | [] => autoStep s
  | t :: ts => turnStep t (withSched ts s)

/-- The state whose next bus operation is the one of a table row's word (entries 2 and 28): the record stands at
the head of the host program, nothing is under way and no turn is chosen. -/
def fetchNext (nbits w : Nat) (s : State) : State :=
  withSched [] (withPending [] (withProgram (recordBytes (tableRecord nbits w) ++ s.host.program) s))

end Sys2Proof.Machine
end

