-- ==== Sys2Proof/Machine/Step.lean ====
section
/-!
DEFINITION. The step of the machine, and the state in which a given bus operation is the next one.
-/
namespace Sys2Proof.Machine

/-- One step: a turn the environment has chosen, else the agents' own schedule (spec/00_scope.md R15, R16). -/
def step (s : State) : Host.Outcome State Fault Refusal := stepOnce s

/-- The state whose next step issues the bus operation of an opcode-table row's word. -/
def State.withFetchWord (s : State) (nbits w : Nat) : State := fetchNext nbits w s

end Sys2Proof.Machine
end

