-- ==== Sys2Proof/Safety.lean ====
section
/-!
DEFINITION. The terms claims about the machine are stated in: what a safe state is, which access an instruction
makes and when it is performed at once, which pixels a command visits, and what a finished command leaves.
-/
namespace Sys2Proof.Machine

/-! ### Safe states -/

/-- VRAM keeps its canonical form and lies inside the installed memory (spec/20_memory.md R80). -/
def MemOk (s : State) : Prop :=
  Memory.wf s.vram = true ∧ Memory.below (2 ^ s.cfg.vramBits) s.vram = true

/-- The FIFO holds at most its capacity, is not busy between steps and keeps its ring's form
(spec/41_fifo.md R194, R200). -/
def FifoOk (s : State) : Prop :=
  s.fifo.entries ≤ Config.fifoSize - Config.fifoHeadroom ∧ s.fifo.busy = false ∧ ringWf s.fifo.ring = true

/-- A 32-bit register holds a sign-extended 14-bit field (spec/10_state.md R32). -/
def isCoord (r : Word) : Prop := r = (r.extractLsb' 0 14).signExtend 32

/-- Every position register holds a sign-extended 14-bit field. `ERR_TERM` is not among them: a line stores its
error term modulo `2^32` (R32, spec/43_lines.md R248). -/
def CoordsOk (s : State) : Prop :=
  isCoord s.regs.curX ∧ isCoord s.regs.curY ∧ isCoord s.regs.curX2 ∧ isCoord s.regs.curY2 ∧
    isCoord s.regs.destxDiastp ∧ isCoord s.regs.destyAxstp ∧ isCoord s.regs.destx2 ∧ isCoord s.regs.desty2

/-- The status bits this block never sets stay 0 (spec/10_state.md R51). -/
def StatusOk (s : State) : Prop :=
  s.regs.subsysStat.getLsbD 0 = false ∧ s.regs.subsysStat.getLsbD 2 = false

/-- An operation that is still active between steps is one the CPU feeds or reads, its class is that of its `CMD`
word and of the register, and it has no negative count left (spec/40_bus_access.md R154). -/
def EngineOk (s : State) : Prop :=
  s.eng.active = true →
    takesCpu s.eng.cmd = true ∧ s.eng.cls = cmdClass s.eng.cmd ∧ cmdClass s.regs.cmd = cmdClass s.eng.cmd ∧
      0 ≤ s.eng.sy

/-- Every register is 0 (spec/10_state.md R68, spec/70_reset_and_hazards.md R450). -/
def zeroRegs (r : Regs) : Prop :=
  r.curX = 0 ∧ r.curY = 0 ∧ r.curX2 = 0 ∧ r.curY2 = 0 ∧ r.destxDiastp = 0 ∧ r.destyAxstp = 0 ∧ r.destx2 = 0 ∧
    r.desty2 = 0 ∧ r.errTerm = 0 ∧ r.majAxisPcnt = 0 ∧ r.bkgdColor = 0 ∧ r.frgdColor = 0 ∧ r.wrtMask = 0 ∧
    r.rdMask = 0 ∧ r.colorCmp = 0 ∧ r.bkgdLanes = ⟨0, 0, 0, 0⟩ ∧ r.frgdLanes = ⟨0, 0, 0, 0⟩ ∧
    r.wrtLanes = ⟨0, 0, 0, 0⟩ ∧ r.rdLanes = ⟨0, 0, 0, 0⟩ ∧ r.cmpLanes = ⟨0, 0, 0, 0⟩ ∧ r.bkgdMix = 0 ∧
    r.frgdMix = 0 ∧ r.cmd = 0 ∧ r.shortStroke = 0 ∧ (∀ i : BitVec 4, r.mf i = 0) ∧ r.mfLatch = 0 ∧
    r.pixTrans.toList = [0, 0, 0, 0] ∧ r.advfunc = 0 ∧ r.subsysStat = 0 ∧ r.subsysEn = 0

/-- No operation is active and every working value is 0 or empty (spec/10_state.md R55, R49, R44). -/
def idleEng (e : Eng) : Prop :=
  e.active = false ∧ e.cls = 0 ∧ e.cmd = 0 ∧ e.cx = 0 ∧ e.cy = 0 ∧ e.sx = 0 ∧ e.sy = 0 ∧ e.err = 0 ∧ e.ax = 0 ∧
    e.dia = 0 ∧ e.srcx = 0 ∧ e.srcy = 0 ∧ e.x0 = 0 ∧ e.srcx0 = 0 ∧ e.w = 0 ∧ e.patx = 0 ∧ e.paty = 0 ∧
    e.fx1 = 0 ∧ e.fx2 = 0 ∧ e.dfx1 = 0 ∧ e.dfx2 = 0 ∧ e.plX = 0 ∧ e.plY = 0 ∧ e.plX1 = 0 ∧ e.plY1 = 0 ∧
    e.plDx = 0 ∧ e.plDy = 0 ∧ e.plSx = 0 ∧ e.plSy = 0 ∧ e.plErr = 0 ∧ e.cpuBits = [] ∧ e.cpuPix = [] ∧
    e.phase16 = false ∧ e.rb = [] ∧ e.rbEnded = false ∧ e.pixCount = 0 ∧ e.dataAvailable = false

/-- Both counters are 0 and no entry is being dispatched (spec/41_fifo.md R202). -/
def emptyFifo (f : Fifo) : Prop := f.readIdx = 0 ∧ f.writeIdx = 0 ∧ f.busy = false ∧ f.queue = []

/-! ### Accesses -/

/-- The bus access an instruction makes. -/
def accessOf : Instr → Space × Nat × BusAction
  | .nop sp o => (sp, portOf .cmd, .write .w16 ((cmdWord 0 o).setWidth 32))
  | .line sp o => (sp, portOf .cmd, .write .w16 ((cmdWord 1 o).setWidth 32))
  | .lineRadial sp o => (sp, portOf .cmd, .write .w16 ((cmdWord 1 o).setWidth 32))
  | .rect sp o => (sp, portOf .cmd, .write .w16 ((cmdWord 2 o).setWidth 32))
  | .rectCpu sp o => (sp, portOf .cmd, .write .w16 ((cmdWord 2 o).setWidth 32))
  | .rectRead sp o => (sp, portOf .cmd, .write .w16 ((cmdWord 2 o).setWidth 32))
  | .polySolid sp o => (sp, portOf .cmd, .write .w16 ((cmdWord 3 o).setWidth 32))
  | .polyPat sp o => (sp, portOf .cmd, .write .w16 ((cmdWord 3 o).setWidth 32))
  | .ropblt sp o => (sp, portOf .cmd, .write .w16 ((cmdWord 4 o).setWidth 32))
  | .polyline sp o => (sp, portOf .cmd, .write .w16 ((cmdWord 5 o).setWidth 32))
  | .bitblt sp o => (sp, portOf .cmd, .write .w16 ((cmdWord 6 o).setWidth 32))
  | .patfill sp o => (sp, portOf .cmd, .write .w16 ((cmdWord 7 o).setWidth 32))
  | .ssv sp hi dir draw len => (sp, portAddr .shortStroke hi, .write .w8 ((strokeByte dir draw len).setWidth 32))
  | .outSubsysCntl odd w v => (.io, portAddr .subsys odd, .write w v)
  | .inSubsysStat odd w => (.io, portAddr .subsys odd, .read w)
  | .outAdvfuncCntl odd w v => (.io, portAddr .advfunc odd, .write w v)
  | .inAdvfuncCntl odd w => (.io, portAddr .advfunc odd, .read w)
  | .outCurY odd w v => (.io, portAddr .curY odd, .write w v)
  | .inCurY odd w => (.io, portAddr .curY odd, .read w)
  | .outCurX odd w v => (.io, portAddr .curX odd, .write w v)
  | .inCurX odd w => (.io, portAddr .curX odd, .read w)
  | .outDestyAxstp odd w v => (.io, portAddr .destyAxstp odd, .write w v)
  | .inDestyAxstp odd w => (.io, portAddr .destyAxstp odd, .read w)
  | .outDestxDiastp odd w v => (.io, portAddr .destxDiastp odd, .write w v)
  | .inDestxDiastp odd w => (.io, portAddr .destxDiastp odd, .read w)
  | .outErrTerm odd w v => (.io, portAddr .errTerm odd, .write w v)
  | .inErrTerm odd w => (.io, portAddr .errTerm odd, .read w)
  | .outMajAxisPcnt odd w v => (.io, portAddr .majAxisPcnt odd, .write w v)
  | .inMajAxisPcnt odd w => (.io, portAddr .majAxisPcnt odd, .read w)
  | .outCmd odd w v => (.io, portAddr .cmd odd, .write w v)
  | .inGpStat odd w => (.io, portAddr .cmd odd, .read w)
  | .outShortStroke odd w v => (.io, portAddr .shortStroke odd, .write w v)
  | .inShortStroke odd w => (.io, portAddr .shortStroke odd, .read w)
  | .outBkgdColor odd w v => (.io, portAddr .bkgdColor odd, .write w v)
  | .inBkgdColor odd w => (.io, portAddr .bkgdColor odd, .read w)
  | .outFrgdColor odd w v => (.io, portAddr .frgdColor odd, .write w v)
  | .inFrgdColor odd w => (.io, portAddr .frgdColor odd, .read w)
  | .outWrtMask odd w v => (.io, portAddr .wrtMask odd, .write w v)
  | .inWrtMask odd w => (.io, portAddr .wrtMask odd, .read w)
  | .outRdMask odd w v => (.io, portAddr .rdMask odd, .write w v)
  | .inRdMask odd w => (.io, portAddr .rdMask odd, .read w)
  | .outColorCmp odd w v => (.io, portAddr .colorCmp odd, .write w v)
  | .inColorCmp odd w => (.io, portAddr .colorCmp odd, .read w)
  | .outBkgdMix odd w v => (.io, portAddr .bkgdMix odd, .write w v)
  | .inBkgdMix odd w => (.io, portAddr .bkgdMix odd, .read w)
  | .outFrgdMix odd w v => (.io, portAddr .frgdMix odd, .write w v)
  | .inFrgdMix odd w => (.io, portAddr .frgdMix odd, .read w)
  | .outMultifunc odd w v => (.io, portAddr .multifunc odd, .write w v)
  | .inMultifunc odd w => (.io, portAddr .multifunc odd, .read w)
  | .outPixTrans lane w v => (.io, pixPortLo + lane.toNat, .write w v)
  | .inPixTrans lane w => (.io, pixPortLo + lane.toNat, .read w)
  | .outCurY2 odd w v => (.io, portAddr .curY2 odd, .write w v)
  | .inCurY2 odd w => (.io, portAddr .curY2 odd, .read w)
  | .outCurX2 odd w v => (.io, portAddr .curX2 odd, .write w v)
  | .inCurX2 odd w => (.io, portAddr .curX2 odd, .read w)
  | .outDesty2 odd w v => (.io, portAddr .desty2 odd, .write w v)
  | .inDesty2 odd w => (.io, portAddr .desty2 odd, .read w)
  | .outDestx2 odd w v => (.io, portAddr .destx2 odd, .write w v)
  | .inDestx2 odd w => (.io, portAddr .destx2 odd, .read w)
  | .ioUnmapped port act => (.io, port.toNat, act)
  | .mmioPixTrans win off act => (win.space, off.toNat, act)
  | .mmioReg win off act => (win.space, off.toNat, act)
  | .mw32PkBkgdColor win v => (win.space, packedOffset .bkgdColor, .write .w32 v)
  | .mr32PkBkgdColor win => (win.space, packedOffset .bkgdColor, .read .w32)
  | .mw32PkFrgdColor win v => (win.space, packedOffset .frgdColor, .write .w32 v)
  | .mr32PkFrgdColor win => (win.space, packedOffset .frgdColor, .read .w32)
  | .mw32PkWrtMask win v => (win.space, packedOffset .wrtMask, .write .w32 v)
  | .mr32PkWrtMask win => (win.space, packedOffset .wrtMask, .read .w32)
  | .mw32PkRdMask win v => (win.space, packedOffset .rdMask, .write .w32 v)
  | .mr32PkRdMask win => (win.space, packedOffset .rdMask, .read .w32)
  | .mw32PkColorCmp win v => (win.space, packedOffset .colorCmp, .write .w32 v)
  | .mr32PkColorCmp win => (win.space, packedOffset .colorCmp, .read .w32)
  | .mw32PkMix win v => (win.space, packedOffset .mix, .write .w32 v)
  | .mr32PkMix win => (win.space, packedOffset .mix, .read .w32)
  | .mw32PkScissorsTl win v => (win.space, packedOffset .scissorsTl, .write .w32 v)
  | .mr32PkScissorsTl win => (win.space, packedOffset .scissorsTl, .read .w32)
  | .mw32PkScissorsBr win v => (win.space, packedOffset .scissorsBr, .write .w32 v)
  | .mr32PkScissorsBr win => (win.space, packedOffset .scissorsBr, .read .w32)
  | .mw32PkPixCntlMisc2 win v => (win.space, packedOffset .pixCntlMisc2, .write .w32 v)
  | .mr32PkPixCntlMisc2 win => (win.space, packedOffset .pixCntlMisc2, .read .w32)
  | .mw32PkMultMiscRdsel win v => (win.space, packedOffset .multMiscRdsel, .write .w32 v)
  | .mr32PkMultMiscRdsel win => (win.space, packedOffset .multMiscRdsel, .read .w32)
  | .mmioUnmapped off act => (.newMmio, off.toNat, act)
  | .mmioStreams off act => (.newMmio, off.toNat, act)

/-- The space is enabled and the address has no second name (spec/20_memory.md R89, spec/30_encoding.md R111). -/
def named (s : State) (sp : Space) (a : Nat) : Prop :=
  reaches s.cfg s.inputs sp = true ∧ findAlias a s.cfg.aliases = none

/-- The chip has the register (R112). -/
def present (s : State) (r : PortReg) : Prop := isSecondPoint r = true → hasSecondPoint s.cfg.cap = true

/-- An access at a byte of a port register reaches that register. -/
def portOpen (s : State) (sp : Space) (r : PortReg) (odd : Bool) : Prop :=
  named s sp (portAddr r odd) ∧ present s r

/-- A queued register's write is performed at once: it is not queued, and nothing is in the FIFO (R150, R102). -/
def writesNow (s : State) : Prop := s.queuing = false ∧ s.fifo.drained = true

/-- A read is not held (R103, R197). -/
def readsNow (s : State) : Prop := s.enableFifo = false ∨ s.fifo.drained = true

/-- Packed registers are in force in a window (R115, R116). -/
def packedOn (s : State) (win : Window) : Prop :=
  win = .linear ∨ (s.cfg.cap.hasPackedMmio = true ∧ s.inputs.packedMmioMode = true)

/-- A 32-bit access at the default offset of a packed register reaches it (R117). -/
def packedOpen (s : State) (win : Window) (k : PackedReg) : Prop :=
  named s win.space (packedOffset k) ∧ packedOn s win ∧
    findPacked (packedOffset k) s.cfg.packedMap = some k

/-- No 32-bit access at an offset is a packed one there (R115 to R117). -/
def noPacked (s : State) (sp : Space) (a : Nat) : Prop :=
  match sp with
  | .io => True
  | .legacyMmio => packedOn s .legacy → findPacked a s.cfg.packedMap = none
  | .newMmio => packedOn s .linear → findPacked a s.cfg.packedMap = none

/-- The write of a port register in a space: by port number, or by the window offset that is it (R110, R115, R116). -/
def regWrite (sp : Space) (r : PortReg) (odd : Bool) (w : Width) (v : Word) : Instr :=
  match sp with
  | .io => outInstr r odd w v
  | .legacyMmio => .mmioReg .legacy (BitVec.ofNat 17 (portAddr r odd)) (.write w v)
  | .newMmio => .mmioReg .linear (BitVec.ofNat 17 (portAddr r odd)) (.write w v)

/-- The read of a port register in a space. -/
def regRead (sp : Space) (r : PortReg) (odd : Bool) (w : Width) : Instr :=
  match sp with
  | .io => inInstr r odd w
  | .legacyMmio => .mmioReg .legacy (BitVec.ofNat 17 (portAddr r odd)) (.read w)
  | .newMmio => .mmioReg .linear (BitVec.ofNat 17 (portAddr r odd)) (.read w)

/-- An access is one bus operation: something is mapped for its width at its address, or no byte of it is mapped
(R86, R112). -/
def oneAccess (s : State) (sp : Space) (a : Nat) (w : Width) : Bool :=
  decide (resolve s.cfg s.inputs sp a w ≠ .unmapped) ||
    (List.range (widthBytes w)).all fun k => decide (resolve s.cfg s.inputs sp (a + k) .w8 = .unmapped)

/-- Width of the first operation of an access that is not one (R86). -/
def firstWidth (s : State) (sp : Space) (a : Nat) (w : Width) : Width :=
  if w = .w32 ∧ oneAccess s sp a .w16 = true then .w16 else .w8

/-- Byte offset and width of the operations after the first, of an access that is not one: a 16-bit access is two
bytes, a 32-bit access two 16-bit ones, each again two bytes where it is not one (R86). -/
def restLanes (s : State) (sp : Space) (a : Nat) (w : Width) : List (Nat × Width) :=
  match w with
  | .w8 => []
  | .w16 => [(1, .w8)]
  | .w32 =>
    (if oneAccess s sp a .w16 = true then [] else [(1, .w8)]) ++
      (if oneAccess s sp (a + 2) .w16 = true then [(2, .w16)] else [(2, .w8), (3, .w8)])

/-- Waiting parts of an access at `a`, from their byte offsets and widths, in that order; the one that reaches the
access's last byte is marked the last. -/
def partsOf (sp : Space) (a : Nat) (act : BusAction) (lanes : List (Nat × Width)) : List Part :=
  lanes.map fun l => ⟨sp, a + l.1, partAction act l.1 l.2, l.1, act.width,
    decide (l.1 + widthBytes l.2 = widthBytes act.width), none⟩

/-- The operations after the first of a 32-bit access at the odd byte of a port register: the byte after it, then the
next 16 bits, as two bytes where a second-point register lies there (R86, R110, R112). -/
def oddLanes (s : State) (r : PortReg) : List (Nat × Width) :=
  if hasSecondPoint s.cfg.cap = true ∧ (r = .curY ∨ r = .curX ∨ r = .destyAxstp ∨ r = .destxDiastp) then
    [(1, .w8), (2, .w8), (3, .w8)]
  else [(1, .w8), (2, .w16)]

/-- The part of a 16-bit register an access at its base (or, `odd`, at its second byte) reaches, where it is
handled as one operation on that register (R86). -/
def formOf (odd : Bool) (w : Width) : Option RegPart :=
  match odd, w with
  | false, .w8 => some .lo
  | true, .w8 => some .hi
  | false, .w16 => some .word
  | _, _ => none

/-! ### Commands -/

/-- A `CMD` word written in a space starts its operation at once (R150, R153). -/
def commandNow (s : State) (sp : Space) : Prop := portOpen s sp .cmd false ∧ writesNow s

/-- The state in which the operation of a `CMD` word begins: the word is stored, the pixel-transfer count and
`data_available` are cleared and the data of an older operation are gone (spec/40_bus_access.md R153, R154). -/
def commandState (c : Half) (s : State) : State :=
  { s with
    regs := { s.regs with cmd := c }
    eng := { s.eng with
      pixCount := 0
      dataAvailable := false
      phase16 := if byteDoubled s.cfg then false else s.eng.phase16
      cpuBits := []
      cpuPix := []
      cmd := c
      cls := cmdClass c
      active := false } }

/-- The pixels of a walk, visited one after another, each seeing the writes of those before it
(spec/20_memory.md R104). -/
def visitAll {α : Type} (visit : α → State → State) (ps : List α) (s : State) : State :=
  ps.foldl (fun u p => visit p u) s

/-- A visited pixel of a class without a source (spec/42_pixel_pipeline.md R210). -/
def plain (p : Int × Int) (s : State) : State := pixel p.1 p.2 none none false s

/-- The pixels of a line in order; the last one is not written where `lpn` holds (spec/43_lines.md R255). -/
def visitLine (lpn : Bool) : List (Int × Int) → State → State
  | [], s => s
  | [p], s => pixel p.1 p.2 none none lpn s
  | p :: q :: ps, s => visitLine lpn (q :: ps) (plain p s)

/-- An address is one of the bytes of the destination pixel at a position (spec/20_memory.md R81). -/
def isPixelByte (cfg : Config) (p : Int × Int) (a : Nat) : Prop :=
  ∃ k, k < pixelBytes cfg.depth ∧
    a = byteAddr cfg (pixAddr cfg cfg.destBase (reduce cfg p.1) (reduce cfg p.2)) k

/-- Every byte outside the visited destination pixels reads as before. -/
def sameOutside (s t : State) (ps : List (Int × Int)) : Prop :=
  ∀ a, (∀ p ∈ ps, ¬ isPixelByte s.cfg p a) → Memory.read t.vram a = Memory.read s.vram a

/-- What stays in every access that is performed at once: the session, the signals, the FIFO and the host side. -/
def sameContext (s t : State) : Prop :=
  t.cfg = s.cfg ∧ t.inputs = s.inputs ∧ t.fifo = s.fifo ∧ t.host = s.host

/-- What a finished command leaves: VRAM `m` and registers `r`, with the engine idle. -/
def Finished (s t : State) (m : Memory) (r : Regs) : Prop :=
  t.vram = m ∧ t.regs = r ∧ t.eng.active = false ∧ t.eng.dataAvailable = false ∧ t.eng.pixCount = 0 ∧
    sameContext s t

/-- The registers with a `CMD` word stored and `GE_DONE` raised. -/
def doneRegs (s : State) (c : Half) : Regs :=
  { s.regs with cmd := c, subsysStat := s.regs.subsysStat ||| 2#4 }

/-! ### Which pixels a command visits -/

/-- Offsets of a rectangle of `w + 1` columns and `h + 1` rows, row by row (spec/44_fills.md R280). -/
def grid (w h : Nat) : List (Int × Int) :=
  (List.range (h + 1)).flatMap fun j => (List.range (w + 1)).map fun i => ((i : Int), (j : Int))

/-- The rectangle from a corner, in the directions of a `CMD` word. -/
def rectPixels (c : Half) (x y : Int) (w h : Nat) : List (Int × Int) :=
  (grid w h).map fun q => (x + q.1 * dirX c, y + q.2 * dirY c)

/-- One Bresenham step on position and error term (spec/43_lines.md R255). -/
def bresenham (c : Half) (ax dia : Int) (p : Int × Int × Int) : Int × Int × Int :=
  if 0 ≤ p.2.2 then (p.1 + dirX c, p.2.1 + dirY c, p.2.2 + dia)
  else if cmdYmaj c then (p.1, p.2.1 + dirY c, p.2.2 + ax)
  else (p.1 + dirX c, p.2.1, p.2.2 + ax)

/-- One step of the symmetric Bresenham of a two-point line, on position and error term, for the end-point
differences and signs of the line (R265). -/
def symmetric (dx dy sx sy : Int) (p : Int × Int × Int) : Int × Int × Int :=
  (if -dy < 2 * p.2.2 then p.1 + sx else p.1, if 2 * p.2.2 < dx then p.2.1 + sy else p.2.1,
    p.2.2 - (if -dy < 2 * p.2.2 then dy else 0) + (if 2 * p.2.2 < dx then dx else 0))

/-- The state of a walk after `n` steps. -/
def after (step : Int × Int × Int → Int × Int × Int) : Nat → Int × Int × Int → Int × Int × Int
  | 0, p => p
  | n + 1, p => after step n (step p)

/-- The `n + 1` positions of a walk of `n` steps. -/
def walkPixels (step : Int × Int × Int → Int × Int × Int) (n : Nat) (p : Int × Int × Int) : List (Int × Int) :=
  (List.range (n + 1)).map fun k => ((after step k p).1, (after step k p).2.1)

/-- The `n + 1` positions from a start in a fixed direction (R260, R252). -/
def rayPixels (d : BitVec 3) (n : Nat) (x y : Int) : List (Int × Int) :=
  (List.range (n + 1)).map fun (k : Nat) => (x + k * ddx d, y + k * ddy d)

/-- The inclusive span between two edge positions on a row, left to right (spec/44_fills.md R290). -/
def spanPixels (f1 f2 : Int) (y : Int) : List (Int × Int) :=
  (List.range ((max (f1 / 2 ^ 20) (f2 / 2 ^ 20) - min (f1 / 2 ^ 20) (f2 / 2 ^ 20) + 1).toNat)).map
    fun (i : Nat) => (min (f1 / 2 ^ 20) (f2 / 2 ^ 20) + i, y)

/-- The scanlines of a polygon: `n` rows from `y`, the edges moving by their deltas (R290). -/
def polyPixels (n : Nat) (f1 d1 f2 d2 y : Int) : List (Int × Int) :=
  (List.range n).flatMap fun (j : Nat) => spanPixels (f1 + j * d1) (f2 + j * d2) (y + j)

/-- The source pixel at a position of the source surface (spec/45_blits.md R310). -/
def sourceAt (s : State) (x y : Int) : Word :=
  readPixel s.cfg s.vram (pixAddr s.cfg s.cfg.srcBase (reduce s.cfg x) (reduce s.cfg y)) &&&
    pixelMask s.cfg.depth

/-- The pixel of the 8x8 tile at `(tx, ty)` used at a destination position (R291, R315). -/
def tileAt (s : State) (tx ty : Nat) (p : Int × Int) : Word :=
  readPixel s.cfg s.vram (pixAddr s.cfg s.cfg.srcBase (tx + reduce s.cfg p.1 % 8) (ty + reduce s.cfg p.2 % 8)) &&&
    pixelMask s.cfg.depth

/-! ### CPU data (spec/40_bus_access.md R162, spec/42_pixel_pipeline.md R240 to R244) -/

/-- Byte `k` of the unit that the byte `b` completes, the two bytes of each 16-bit half exchanged where `CMD[12]` is
set and the unit has more than one (R243). -/
def fedByte (s : State) (b : Byte) (k : Nat) : Byte :=
  let n := unitSize s.regs.cmd
  let j := if s.eng.cmd.getLsbD 12 = true ∧ 2 ≤ n then (if k % 2 = 0 then k + 1 else k - 1) else k
  if j + 1 = n then b else s.regs.pixTrans.toList.getD j 0

/-- The mix bits of that unit in the order they are consumed: byte by byte, bit 7 first (R241). -/
def unitMixBits (s : State) (b : Byte) : List Bool :=
  (List.range (8 * unitSize s.regs.cmd)).map fun i => (fedByte s b (i / 8)).getLsbD (7 - i % 8)

/-- The pixels of that unit in order, least significant byte first (R242). -/
def unitPixelValues (s : State) (b : Byte) : List Word :=
  (List.range (unitSize s.regs.cmd / pixelBytes s.cfg.depth)).map fun j =>
    (List.range (pixelBytes s.cfg.depth)).foldr
      (fun k v => (v <<< 8) ||| (fedByte s b (j * pixelBytes s.cfg.depth + k)).setWidth 32) 0

/-- The state in which the byte `b` has completed a unit: it is staged, the count starts again, and the unit's mix
bits, or its pixels, follow the data left over (R162, R240). -/
def fedState (s : State) (b : Byte) : State :=
  { s with
    regs := { s.regs with pixTrans := s.regs.pixTrans.set s.eng.pixCount.toNat b }
    eng := { s.eng with
      pixCount := 0
      cpuBits := if s.regs.mixSel = 2 then s.eng.cpuBits ++ unitMixBits s b else s.eng.cpuBits
      cpuPix := if s.regs.mixSel = 2 then s.eng.cpuPix else s.eng.cpuPix ++ unitPixelValues s b } }

/-- How many pixels the buffered data of a fed operation reach: one mix bit, or one CPU pixel, each (R241, R242). -/
def dataCount (s : State) : Nat := if s.regs.mixSel = 2 then s.eng.cpuBits.length else s.eng.cpuPix.length

/-- The parts after the first byte of an access to the pixel-transfer port beside its base, at `lane` 1 to 3: bytes,
and a 16-bit part where both its bytes lie past the port (R86, R112). -/
def pixTail (lane : Nat) (act : BusAction) : List Part :=
  let part : Nat → Width → Bool → Part := fun k w last =>
    ⟨.io, pixPortLo + lane + k, partAction act k w, k, act.width, last, none⟩
  match act.width with
  | .w8 => []
  | .w16 => [part 1 .w8 true]
  | .w32 =>
    if lane = 1 then [part 1 .w8 false, part 2 .w8 false, part 3 .w8 true] else [part 1 .w8 false, part 2 .w16 true]

/-! ### Pixels -/

/-- Position of a pixel in VRAM. -/
def destIndex (s : State) (x y : Int) : Nat :=
  pixAddr s.cfg s.cfg.destBase (reduce s.cfg x) (reduce s.cfg y)

end Sys2Proof.Machine
end

