-- ==== Sys2Proof/Certificates/Slice0/Obligations.lean ====
section
/-!
DEFINITION. The statements for the provers, one `Prop` each; OBLIGATIONS.json lists them with the rules they
formalise.
-/
open Sys2Proof Sys2Proof.Machine

/-- Every well-formed bus operation is read back from its record, with every operand at every value the record
admits (record format: the model's choice, assumption log entry 1). -/
def Obligations.EncodeDecode : Prop :=
  ∀ (i : Instr) (rest : List Byte), i.wf = true → decode (encode i ++ rest) = .ok (i, rest)

/-- What the decoder reads is well-formed, and its record is the one read: no bit of a record is dropped. -/
def Obligations.DecodeEncode : Prop :=
  ∀ (bs : List Byte) (i : Instr) (rest : List Byte),
    decode bs = .ok (i, rest) → i.wf = true ∧ encode i ++ rest = bs

/-- A few words written out from the encoding tables (R120, R121, R126, R110, R117) decode to the operations they
stand for. -/
def Obligations.DecodeWords : Prop :=
  (∀ rest : List Byte,
      decode ([0x21, 0xE8, 0x9A, 0x00, 0xB1, 0x40, 0x00, 0x00] ++ rest) =
        .ok (.rect .io ⟨false, false, 0, false, true, false, true, true, false, false, false, true⟩, rest)) ∧
    (∀ rest : List Byte,
      decode ([0x21, 0xE8, 0x9A, 0x00, 0xD9, 0x20, 0x00, 0x00] ++ rest) =
        .ok (.lineRadial .io ⟨false, false, 0, false, true, true, false, true, true, false, false, true⟩, rest)) ∧
    (∀ rest : List Byte,
      decode ([0x40, 0xE9, 0x9E, 0x00, 0x33, 0x00, 0x00, 0x00] ++ rest) = .ok (.ssv .io true 1 true 3, rest)) ∧
    (∀ rest : List Byte,
      decode ([0x01, 0xE8, 0x86, 0x00, 0x34, 0x12, 0x00, 0x00] ++ rest) =
        .ok (.outCurX false .w16 0x1234, rest)) ∧
    (∀ rest : List Byte,
      decode ([0x0A, 0x38, 0x81, 0x00, 0x07, 0x00, 0x02, 0x00] ++ rest) =
        .ok (.mw32PkScissorsTl .legacy 0x20007, rest))

/-- A step in which the host goes on with its program runs the operation decoded there, on the state whose program
continues after it; so does a turn the environment gives to the host. -/
def Obligations.StepRunsDecoded : Prop :=
  ∀ (s : State) (i : Instr) (rest : List Byte),
    s.host.pending = [] → decode s.host.program = .ok (i, rest) →
      (s.host.sched = [] → step s = exec i { s with host := { s.host with program := rest } }) ∧
      (∀ ts, s.host.sched = .host :: ts →
        step s = exec i { s with host := { s.host with sched := ts, program := rest } })

/-- The state after reset: every register, every working value and both FIFO counters are 0 (R68, R450), so no write
is queued, the status words read 0 and the interrupt output is low (R451). -/
def Obligations.ResetState : Prop :=
  zeroRegs State.reset.regs ∧ idleEng State.reset.eng ∧ emptyFifo State.reset.fifo ∧
    State.reset.queuing = false ∧ State.reset.gpStat = 0 ∧ State.reset.subsysStatWord = 0 ∧
    State.reset.irq = false

/-- The invariants hold in the state after reset. -/
def Obligations.ResetSafe : Prop :=
  MemOk State.reset ∧ FifoOk State.reset ∧ CoordsOk State.reset ∧ StatusOk State.reset ∧ EngineOk State.reset

/-- A device reset, taken as a turn of its own: registers, working state and FIFO as after power-on, a held access
abandoned, VRAM, the session and the input signals unchanged; the status words read 0 and the interrupt output
is low (R450, R202, R68), so that no write is queued (R451). That the program, the read history and the counter
of free values stay, and that an access that is not held goes on, its parts decided anew, are the model's choice
(assumption log entry 25). -/
def Obligations.DeviceReset : Prop :=
  ∀ (s : State) (ts : List Turn), s.host.sched = .deviceReset :: ts →
    ∃ t, step s = .next t ∧ zeroRegs t.regs ∧ idleEng t.eng ∧ emptyFifo t.fifo ∧
      t.gpStat = 0 ∧ t.subsysStatWord = 0 ∧ t.irq = false ∧ t.queuing = false ∧
      t.vram = s.vram ∧ t.cfg = s.cfg ∧ t.inputs = s.inputs ∧ t.draws = s.draws ∧
      t.host.program = s.host.program ∧ t.host.history = s.host.history ∧ t.host.sched = ts ∧
      (∀ p ps, s.host.pending = p :: ps → t.host.pending =
        if s.waits p then [] else (p :: ps).map fun q => { q with decided := none })

/-- A low byte changes bits 7:0 alone; a high byte, or a 16-bit write, completes the 14-bit field and sign-extends
it. Nothing else changes (R151). -/
def Obligations.CoordinateWrites : Prop :=
  ∀ (s : State) (odd : Bool) (w : Width) (v : Word) (part : RegPart),
    formOf odd w = some part → writesNow s →
      let new : Word → Word := fun r =>
        match part with
        | .lo => r.extractLsb' 8 24 ++ v.extractLsb' 0 8
        | .hi => (v.extractLsb' 0 6 ++ r.extractLsb' 0 8).signExtend 32
        | .word => (v.extractLsb' 0 14).signExtend 32
      (portOpen s .io .curX odd → exec (.outCurX odd w v) s =
        .next { s with regs := { s.regs with curX := new s.regs.curX } }) ∧
      (portOpen s .io .curY odd → exec (.outCurY odd w v) s =
        .next { s with regs := { s.regs with curY := new s.regs.curY } }) ∧
      (portOpen s .io .curX2 odd → exec (.outCurX2 odd w v) s =
        .next { s with regs := { s.regs with curX2 := new s.regs.curX2 } }) ∧
      (portOpen s .io .curY2 odd → exec (.outCurY2 odd w v) s =
        .next { s with regs := { s.regs with curY2 := new s.regs.curY2 } }) ∧
      (portOpen s .io .destxDiastp odd → exec (.outDestxDiastp odd w v) s =
        .next { s with regs := { s.regs with destxDiastp := new s.regs.destxDiastp } }) ∧
      (portOpen s .io .destyAxstp odd → exec (.outDestyAxstp odd w v) s =
        .next { s with regs := { s.regs with destyAxstp := new s.regs.destyAxstp } }) ∧
      (portOpen s .io .destx2 odd → exec (.outDestx2 odd w v) s =
        .next { s with regs := { s.regs with destx2 := new s.regs.destx2 } }) ∧
      (portOpen s .io .desty2 odd → exec (.outDesty2 odd w v) s =
        .next { s with regs := { s.regs with desty2 := new s.regs.desty2 } }) ∧
      (portOpen s .io .errTerm odd → exec (.outErrTerm odd w v) s =
        .next { s with regs := { s.regs with errTerm := new s.regs.errTerm } })

/-- The 12-bit count and the two mix registers, byte lanes and whole (R152, R158). -/
def Obligations.CountAndMixWrites : Prop :=
  ∀ (s : State) (odd : Bool) (w : Width) (v : Word) (part : RegPart),
    formOf odd w = some part → writesNow s →
      let half : Half → Half := fun r =>
        match part with
        | .lo => r.extractLsb' 8 8 ++ v.extractLsb' 0 8
        | .hi => v.extractLsb' 0 8 ++ r.extractLsb' 0 8
        | .word => v.extractLsb' 0 16
      (portOpen s .io .majAxisPcnt odd →
        exec (.outMajAxisPcnt odd w v) s = .next { s with regs := { s.regs with
          majAxisPcnt :=
            match part with
            | .lo => s.regs.majAxisPcnt.extractLsb' 8 4 ++ v.extractLsb' 0 8
            | .hi => v.extractLsb' 0 4 ++ s.regs.majAxisPcnt.extractLsb' 0 8
            | .word => v.extractLsb' 0 12 } }) ∧
      (portOpen s .io .bkgdMix odd →
        exec (.outBkgdMix odd w v) s = .next { s with regs := { s.regs with bkgdMix := half s.regs.bkgdMix } }) ∧
      (portOpen s .io .frgdMix odd →
        exec (.outFrgdMix odd w v) s = .next { s with regs := { s.regs with frgdMix := half s.regs.frgdMix } })

/-- The colour and mask registers, lower or upper half as MULT_MISC[4] says; off byte-doubling chips at 16 bpp
nothing else changes (R156). What such a chip puts into its byte arrays is a free value (assumption log entry
12). -/
def Obligations.ColourWrites : Prop :=
  ∀ (s : State) (odd : Bool) (w : Width) (v : Word) (part : RegPart),
    formOf odd w = some part → writesNow s →
      let new : Word → Word := fun r =>
        match part, (s.regs.mf 0xE).getLsbD 4 with
        | .lo, false => r.extractLsb' 8 24 ++ v.extractLsb' 0 8
        | .hi, false => r.extractLsb' 16 16 ++ (v.extractLsb' 0 8 ++ r.extractLsb' 0 8)
        | .word, false => r.extractLsb' 16 16 ++ v.extractLsb' 0 16
        | .lo, true => r.extractLsb' 24 8 ++ (v.extractLsb' 0 8 ++ r.extractLsb' 0 16)
        | .hi, true => v.extractLsb' 0 8 ++ r.extractLsb' 0 24
        | .word, true => v.extractLsb' 0 16 ++ r.extractLsb' 0 16
      (portOpen s .io .bkgdColor odd →
        ∃ l d, exec (.outBkgdColor odd w v) s = .next { s with
            regs := { s.regs with bkgdColor := new s.regs.bkgdColor, bkgdLanes := l }
            draws := d } ∧
          (byteDoubled s.cfg = false → l = s.regs.bkgdLanes ∧ d = s.draws)) ∧
      (portOpen s .io .frgdColor odd →
        ∃ l d, exec (.outFrgdColor odd w v) s = .next { s with
            regs := { s.regs with frgdColor := new s.regs.frgdColor, frgdLanes := l }
            draws := d } ∧
          (byteDoubled s.cfg = false → l = s.regs.frgdLanes ∧ d = s.draws)) ∧
      (portOpen s .io .wrtMask odd →
        ∃ l d, exec (.outWrtMask odd w v) s = .next { s with
            regs := { s.regs with wrtMask := new s.regs.wrtMask, wrtLanes := l }
            draws := d } ∧
          (byteDoubled s.cfg = false → l = s.regs.wrtLanes ∧ d = s.draws)) ∧
      (portOpen s .io .rdMask odd →
        ∃ l d, exec (.outRdMask odd w v) s = .next { s with
            regs := { s.regs with rdMask := new s.regs.rdMask, rdLanes := l }
            draws := d } ∧
          (byteDoubled s.cfg = false → l = s.regs.rdLanes ∧ d = s.draws)) ∧
      (portOpen s .io .colorCmp odd →
        ∃ l d, exec (.outColorCmp odd w v) s = .next { s with
            regs := { s.regs with colorCmp := new s.regs.colorCmp, cmpLanes := l }
            draws := d } ∧
          (byteDoubled s.cfg = false → l = s.regs.cmpLanes ∧ d = s.draws))

/-- A 16-bit write stores an entry of the multifunction file; a low byte waits in the latch and a high byte stores
the entry it names (R160). -/
def Obligations.MultifuncWrites : Prop :=
  ∀ (s : State) (v : Word), writesNow s →
    (portOpen s .io .multifunc false →
      exec (.outMultifunc false .w16 v) s =
          .next { s with regs := s.regs.setMf (v.extractLsb' 12 4) (v.extractLsb' 0 12) } ∧
        exec (.outMultifunc false .w8 v) s =
          .next { s with regs := { s.regs with mfLatch := v.extractLsb' 0 8 } }) ∧
    (portOpen s .io .multifunc true →
      exec (.outMultifunc true .w8 v) s =
        .next { s with regs := s.regs.setMf (v.extractLsb' 4 4) (v.extractLsb' 0 4 ++ s.regs.mfLatch) })

/-- SUBSYS_CNTL clears the status bits its low byte names and sets the enables from its high byte; ADVFUNC_CNTL is
stored and notifies. Neither is queued: both wait only for an empty FIFO (R166, R142, R167). -/
def Obligations.ControlWrites : Prop :=
  ∀ (s : State) (v : Word), s.fifo.drained = true →
    (portOpen s .io .subsys false →
      exec (.outSubsysCntl false .w16 v) s = .next { s with regs := { s.regs with
          subsysStat := s.regs.subsysStat &&& ~~~(v.extractLsb' 0 4), subsysEn := v.extractLsb' 8 4 } } ∧
        exec (.outSubsysCntl false .w8 v) s = .next { s with regs := { s.regs with
          subsysStat := s.regs.subsysStat &&& ~~~(v.extractLsb' 0 4) } }) ∧
    (portOpen s .io .subsys true →
      exec (.outSubsysCntl true .w8 v) s = .next { s with regs := { s.regs with
        subsysEn := v.extractLsb' 0 4 } }) ∧
    (portOpen s .io .advfunc false →
      exec (.outAdvfuncCntl false .w16 v) s = .next { s with
          regs := { s.regs with advfunc := v.extractLsb' 0 16 }
          host := { s.host with history := .recalc :: s.host.history } } ∧
        exec (.outAdvfuncCntl false .w8 v) s = .next { s with
          regs := { s.regs with advfunc := s.regs.advfunc.extractLsb' 8 8 ++ v.extractLsb' 0 8 }
          host := { s.host with history := .recalc :: s.host.history } }) ∧
    (portOpen s .io .advfunc true →
      exec (.outAdvfuncCntl true .w8 v) s = .next { s with
        regs := { s.regs with advfunc := v.extractLsb' 0 8 ++ s.regs.advfunc.extractLsb' 0 8 }
        host := { s.host with history := .recalc :: s.host.history } })

/-- A low-byte write of CMD stores it, resets the pixel-transfer count and data_available, and starts nothing
(R153). -/
def Obligations.CmdLowByte : Prop :=
  ∀ (s : State) (v : Word), portOpen s .io .cmd false → writesNow s →
    exec (.outCmd false .w8 v) s = .next { s with
      regs := { s.regs with cmd := s.regs.cmd.extractLsb' 8 8 ++ v.extractLsb' 0 8 }
      eng := { s.eng with pixCount := 0, dataAvailable := false } }

/-- A 16-bit write of CMD is the command of its class; a high-byte write starts the command made of it and the
stored low byte, and leaves the count of staged bytes and data_available as they are, but that a read-back sets
data_available (R153, R149, R285). -/
def Obligations.CmdWordIsCommand : Prop :=
  ∀ (s : State) (v : Word),
    exec (.outCmd false .w16 (v.setWidth 16 |>.setWidth 32)) s = exec (cmdInstr .io (v.setWidth 16)) s ∧
    (portOpen s .io .cmd true → portOpen s .io .cmd false → writesNow s →
      let c : Half := v.extractLsb' 0 8 ++ s.regs.cmd.extractLsb' 0 8
      (s.eng.pixCount = 0 → s.eng.dataAvailable = false → exec (.outCmd true .w8 v) s = exec (cmdInstr .io c) s) ∧
      exec (.outCmd true .w8 v) s =
        thenNext (exec (cmdInstr .io c) s) (fun t => .next { t with eng := { t.eng with
          pixCount := s.eng.pixCount
          dataAvailable := if cmdClass c = 2 ∧ cmdPcdata c = true ∧ cmdWrtdata c = false then true
            else s.eng.dataAvailable } }))

/-- Under a class other than NOP a SHORT_STROKE write only stores; a 16-bit write is the stroke of its low byte,
then that of its high byte (R155). -/
def Obligations.ShortStrokeWrites : Prop :=
  ∀ (s : State) (v : Word), portOpen s .io .shortStroke false → portOpen s .io .shortStroke true → writesNow s →
    (cmdClass s.regs.cmd ≠ 0 →
      exec (.outShortStroke false .w16 v) s =
          .next { s with regs := { s.regs with shortStroke := v.extractLsb' 0 16 } } ∧
        exec (.outShortStroke false .w8 v) s = .next { s with regs := { s.regs with
          shortStroke := s.regs.shortStroke.extractLsb' 8 8 ++ v.extractLsb' 0 8 } } ∧
        exec (.outShortStroke true .w8 v) s = .next { s with regs := { s.regs with
          shortStroke := v.extractLsb' 0 8 ++ s.regs.shortStroke.extractLsb' 0 8 } }) ∧
    exec (.outShortStroke false .w16 v) s =
      thenNext (exec (.outShortStroke false .w8 (v.extractLsb' 0 8 |>.setWidth 32)) s)
        (fun t => exec (.outShortStroke true .w8 (v.extractLsb' 8 8 |>.setWidth 32)) t) ∧
    (∀ (hi : Bool) (dir : BitVec 3) (draw : Bool) (len : BitVec 4),
      exec (.outShortStroke hi .w8 ((dir ++ (BitVec.ofBool draw ++ len)).setWidth 32)) s =
        exec (.ssv .io hi dir draw len) s)

/-- A byte written to the pixel-transfer port goes to the next staging byte, whatever lane it is written on, and
feeds nothing while no operation takes it; a wider write at the base of the port is its bytes one after another
(R162). A wider write at another lane is split: its first byte now, the parts after it wait, those past the port
open bus (R86, R112). -/
def Obligations.PixTransStaging : Prop :=
  ∀ (s : State) (lane : BitVec 2) (v : Word),
    named s .io (pixPortLo + lane.toNat) → writesNow s →
      ((s.eng.active && takesCpu s.eng.cmd && cmdWrtdata s.eng.cmd) = false →
        exec (.outPixTrans lane .w8 v) s = .next { s with
          regs := { s.regs with pixTrans := s.regs.pixTrans.set s.eng.pixCount.toNat (v.extractLsb' 0 8) }
          eng := { s.eng with
            pixCount := if s.eng.pixCount.toNat + 1 = unitSize s.regs.cmd then 0 else s.eng.pixCount + 1 } }) ∧
      (lane = 0 → exec (.outPixTrans lane .w16 v) s =
        thenNext (exec (.outPixTrans lane .w8 (v.extractLsb' 0 8 |>.setWidth 32)) s)
          (exec (.outPixTrans lane .w8 (v.extractLsb' 8 8 |>.setWidth 32)))) ∧
      (lane = 0 → exec (.outPixTrans lane .w32 v) s =
        thenNext (exec (.outPixTrans lane .w16 (v.extractLsb' 0 16 |>.setWidth 32)) s)
          (exec (.outPixTrans lane .w16 (v.extractLsb' 16 16 |>.setWidth 32)))) ∧
      (lane ≠ 0 → ∀ w : Width, exec (.outPixTrans lane w v) s =
        exec (.outPixTrans lane .w8 (v &&& 0xFF)) (pushParts (pixTail lane.toNat (.write w v)) s))

/-- The byte that completes a unit for an operation fed by the CPU runs it as far as its data goes: the unit's mix
bits or pixels, swapped as CMD[12] says, follow those left over, each visited pixel takes one, and the operation
has ended or waits at the next position for more. A rectangle or BitBlt visits pixels of one row at most, and at
its end drops what is left of the unit; a line goes on (R162, R240 to R244, R249). The registers its end writes
back are those of its class (R255, R260, R280, R310). -/
def Obligations.PixTransFeeds : Prop :=
  ∀ (s : State) (lane : BitVec 2) (v : Word),
    named s .io (pixPortLo + lane.toNat) → writesNow s → EngineOk s →
    s.eng.active = true → cmdWrtdata s.eng.cmd = true →
    s.eng.pixCount.toNat + 1 = unitSize s.regs.cmd →
    (s.regs.mixSel = 2 ∨ (pixelBytes s.cfg.depth ≠ 3 ∧ pixelBytes s.cfg.depth ≤ unitSize s.regs.cmd)) →
      let e := s.eng
      let u := fedState s (v.extractLsb' 0 8)
      let isLine : Prop := cmdClass e.cmd = 1
      let place : Nat → Int × Int × Int := fun k =>
        if cmdClass e.cmd = 1 then
          (if e.cmd.getLsbD 3 then
            (e.cx + k * ddx (e.cmd.extractLsb' 5 3), e.cy + k * ddy (e.cmd.extractLsb' 5 3), e.err)
          else after (bresenham e.cmd e.ax e.dia) k (e.cx, e.cy, e.err))
        else (e.cx + k * dirX e.cmd, e.cy, e.err)
      let room := (if cmdClass e.cmd = 1 then e.sy.toNat else e.sx.toNat) + 1
      let n := min (dataCount u) room
      let ps := (List.range n).map fun k => ((place k).1, (place k).2.1)
      let last := place (n - 1)
      let ends : Prop := n = room ∧ (isLine ∨ e.sy = 0)
      ∃ t, exec (.outPixTrans lane .w8 v) s = .next t ∧ sameContext s t ∧ sameOutside s t ps ∧
        t.eng.pixCount = 0 ∧ t.eng.cmd = e.cmd ∧ t.eng.cls = e.cls ∧
        (cmdClass e.cmd = 2 → t.vram = (visitAll plain ps u).vram) ∧
        (cmdClass e.cmd = 6 → t.vram = (visitAll (fun (k : Nat) m =>
          pixel (e.cx + k * dirX e.cmd) e.cy (some (sourceAt m (e.srcx + k * dirX e.cmd) e.srcy)) none false m)
            (List.range n) u).vram) ∧
        (isLine → n ≠ room → t.vram = (visitAll plain ps u).vram) ∧
        (isLine → n = room → t.vram = (visitLine (s.cfg.lpnHonoured && e.cmd.getLsbD 2) ps u).vram) ∧
        (ends → t.eng.active = false ∧ t.regs = { u.regs with
          subsysStat := s.regs.subsysStat ||| 2#4
          curX := if cmdClass e.cmd = 1 then BitVec.ofNat 32 (reduce s.cfg last.1) else s.regs.curX
          curY := if cmdClass e.cmd = 1 then BitVec.ofNat 32 (reduce s.cfg last.2.1)
            else if cmdClass e.cmd = 2 then BitVec.ofNat 32 (reduce s.cfg (e.cy + dirY e.cmd)) else s.regs.curY
          errTerm := if cmdClass e.cmd = 1 ∧ e.cmd.getLsbD 3 = false then BitVec.ofInt 32 last.2.2
            else s.regs.errTerm }) ∧
        (¬ ends → t.eng.active = true ∧ t.hasData = false ∧ t.regs = u.regs ∧
          (isLine → t.eng.cx = (place n).1 ∧ t.eng.cy = (place n).2.1 ∧ t.eng.err = (place n).2.2 ∧
            t.eng.sy = e.sy - n) ∧
          (¬ isLine → n ≠ room → t.eng.cx = e.cx + n * dirX e.cmd ∧ t.eng.cy = e.cy ∧ t.eng.sx = e.sx - n ∧
            t.eng.sy = e.sy ∧ (cmdClass e.cmd = 6 → t.eng.srcx = e.srcx + n * dirX e.cmd ∧ t.eng.srcy = e.srcy)) ∧
          (¬ isLine → n = room → t.eng.cx = e.x0 ∧ t.eng.cy = e.cy + dirY e.cmd ∧ t.eng.sx = e.w ∧
            t.eng.sy = e.sy - 1 ∧ t.eng.cpuBits = [] ∧ t.eng.cpuPix = [] ∧
            (cmdClass e.cmd = 6 → t.eng.srcx = e.srcx0 ∧ t.eng.srcy = e.srcy + dirY e.cmd)))

/-- Each packed write stores all its fields at once and nothing else, off byte-doubling chips at 16 bpp (R164). -/
def Obligations.PackedWrites : Prop :=
  ∀ (s : State) (win : Window) (v : Word), writesNow s →
    (packedOpen s win .bkgdColor →
      ∃ l d, exec (.mw32PkBkgdColor win v) s =
          .next { s with regs := { s.regs with bkgdColor := v, bkgdLanes := l }, draws := d } ∧
        (byteDoubled s.cfg = false → l = s.regs.bkgdLanes ∧ d = s.draws)) ∧
    (packedOpen s win .frgdColor →
      ∃ l d, exec (.mw32PkFrgdColor win v) s =
          .next { s with regs := { s.regs with frgdColor := v, frgdLanes := l }, draws := d } ∧
        (byteDoubled s.cfg = false → l = s.regs.frgdLanes ∧ d = s.draws)) ∧
    (packedOpen s win .wrtMask →
      ∃ l d, exec (.mw32PkWrtMask win v) s =
          .next { s with regs := { s.regs with wrtMask := v, wrtLanes := l }, draws := d } ∧
        (byteDoubled s.cfg = false → l = s.regs.wrtLanes ∧ d = s.draws)) ∧
    (packedOpen s win .rdMask →
      ∃ l d, exec (.mw32PkRdMask win v) s =
          .next { s with regs := { s.regs with rdMask := v, rdLanes := l }, draws := d } ∧
        (byteDoubled s.cfg = false → l = s.regs.rdLanes ∧ d = s.draws)) ∧
    (packedOpen s win .colorCmp →
      ∃ l d, exec (.mw32PkColorCmp win v) s =
          .next { s with regs := { s.regs with colorCmp := v, cmpLanes := l }, draws := d } ∧
        (byteDoubled s.cfg = false → l = s.regs.cmpLanes ∧ d = s.draws)) ∧
    (packedOpen s win .mix →
      exec (.mw32PkMix win v) s = .next { s with regs := { s.regs with
        bkgdMix := v.extractLsb' 0 16, frgdMix := v.extractLsb' 16 16 } }) ∧
    (packedOpen s win .scissorsTl →
      exec (.mw32PkScissorsTl win v) s =
        .next { s with regs := (s.regs.setMf 1 (v.extractLsb' 0 12)).setMf 2 (v.extractLsb' 16 12) }) ∧
    (packedOpen s win .scissorsBr →
      exec (.mw32PkScissorsBr win v) s =
        .next { s with regs := (s.regs.setMf 3 (v.extractLsb' 0 12)).setMf 4 (v.extractLsb' 16 12) }) ∧
    (packedOpen s win .pixCntlMisc2 →
      exec (.mw32PkPixCntlMisc2 win v) s =
        .next { s with regs := (s.regs.setMf 0xA (v.extractLsb' 0 12)).setMf 0xD (v.extractLsb' 16 12) }) ∧
    (packedOpen s win .multMiscRdsel →
      exec (.mw32PkMultMiscRdsel win v) s =
        .next { s with regs := (s.regs.setMf 0xE (v.extractLsb' 0 12)).setMf 0xF (v.extractLsb' 16 12) })

/-- Each packed read returns the fields of its entry in the bits its write takes them from, other bits 0, and
changes no register (R176). -/
def Obligations.PackedReads : Prop :=
  ∀ (s : State) (win : Window), readsNow s →
    let ret : Word → Result := fun v =>
      .next { s with host := { s.host with history := .readReturned .w32 v :: s.host.history } }
    (packedOpen s win .bkgdColor →
      exec (.mr32PkBkgdColor win) s = ret s.regs.bkgdColor) ∧
    (packedOpen s win .frgdColor →
      exec (.mr32PkFrgdColor win) s = ret s.regs.frgdColor) ∧
    (packedOpen s win .wrtMask →
      exec (.mr32PkWrtMask win) s = ret s.regs.wrtMask) ∧
    (packedOpen s win .rdMask →
      exec (.mr32PkRdMask win) s = ret s.regs.rdMask) ∧
    (packedOpen s win .colorCmp →
      exec (.mr32PkColorCmp win) s = ret s.regs.colorCmp) ∧
    (packedOpen s win .mix →
      exec (.mr32PkMix win) s = ret (s.regs.frgdMix ++ s.regs.bkgdMix)) ∧
    (packedOpen s win .scissorsTl →
      exec (.mr32PkScissorsTl win) s = ret (0#4 ++ (s.regs.mf 2 ++ (0#4 ++ s.regs.mf 1)))) ∧
    (packedOpen s win .scissorsBr →
      exec (.mr32PkScissorsBr win) s = ret (0#4 ++ (s.regs.mf 4 ++ (0#4 ++ s.regs.mf 3)))) ∧
    (packedOpen s win .pixCntlMisc2 →
      exec (.mr32PkPixCntlMisc2 win) s = ret (0#4 ++ (s.regs.mf 0xD ++ (0#4 ++ s.regs.mf 0xA)))) ∧
    (packedOpen s win .multMiscRdsel →
      exec (.mr32PkMultMiscRdsel win) s = ret (0#4 ++ (s.regs.mf 0xF ++ (0#4 ++ s.regs.mf 0xE))))

/-- In the legacy window while packed registers are not in force, a 32-bit access at a packed offset is decoded by
the port map, where nothing stands: a write is dropped, a read returns all ones (R402, R115, R112). -/
def Obligations.PackedOff : Prop :=
  ∀ (s : State) (v : Word),
    reaches s.cfg s.inputs .legacyMmio = true → s.cfg.aliases = [] →
    (s.cfg.cap.hasPackedMmio && s.inputs.packedMmioMode) = false →
      let ones : State :=
        { s with host := { s.host with history := .readReturned .w32 0xFFFFFFFF :: s.host.history } }
      exec (.mw32PkBkgdColor .legacy v) s = .next s ∧ exec (.mr32PkBkgdColor .legacy) s = .next ones ∧
      exec (.mw32PkFrgdColor .legacy v) s = .next s ∧ exec (.mr32PkFrgdColor .legacy) s = .next ones ∧
      exec (.mw32PkWrtMask .legacy v) s = .next s ∧ exec (.mr32PkWrtMask .legacy) s = .next ones ∧
      exec (.mw32PkRdMask .legacy v) s = .next s ∧ exec (.mr32PkRdMask .legacy) s = .next ones ∧
      exec (.mw32PkColorCmp .legacy v) s = .next s ∧ exec (.mr32PkColorCmp .legacy) s = .next ones ∧
      exec (.mw32PkMix .legacy v) s = .next s ∧ exec (.mr32PkMix .legacy) s = .next ones ∧
      exec (.mw32PkScissorsTl .legacy v) s = .next s ∧ exec (.mr32PkScissorsTl .legacy) s = .next ones ∧
      exec (.mw32PkScissorsBr .legacy v) s = .next s ∧ exec (.mr32PkScissorsBr .legacy) s = .next ones ∧
      exec (.mw32PkPixCntlMisc2 .legacy v) s = .next s ∧ exec (.mr32PkPixCntlMisc2 .legacy) s = .next ones ∧
      exec (.mw32PkMultMiscRdsel .legacy v) s = .next s ∧ exec (.mr32PkMultMiscRdsel .legacy) s = .next ones

/-- A read of a stored register returns its low 16 bits, or the byte of its lane, and changes no register (R113,
D11). That a colour or mask register gives its low 16 bits while MULT_MISC[4] is set too, where R171 starts its
lanes at bit 16, is assumption log entry 6. -/
def Obligations.StoredReads : Prop :=
  ∀ (s : State) (odd : Bool) (w : Width) (part : RegPart),
    formOf odd w = some part → readsNow s →
      let ret : Half → Result := fun r =>
        let val : Word :=
          match part with
          | .lo => (r.extractLsb' 0 8).setWidth 32
          | .hi => (r.extractLsb' 8 8).setWidth 32
          | .word => r.setWidth 32
        .next { s with host := { s.host with history := .readReturned w val :: s.host.history } }
      let colour : Word → Half := fun r =>
        r.extractLsb' 0 16
      (portOpen s .io .advfunc odd → exec (.inAdvfuncCntl odd w) s = ret s.regs.advfunc) ∧
      (portOpen s .io .curY odd → exec (.inCurY odd w) s = ret (s.regs.curY.extractLsb' 0 16)) ∧
      (portOpen s .io .curX odd → exec (.inCurX odd w) s = ret (s.regs.curX.extractLsb' 0 16)) ∧
      (portOpen s .io .destyAxstp odd → exec (.inDestyAxstp odd w) s = ret (s.regs.destyAxstp.extractLsb' 0 16)) ∧
      (portOpen s .io .destxDiastp odd → exec (.inDestxDiastp odd w) s = ret (s.regs.destxDiastp.extractLsb' 0 16)) ∧
      (portOpen s .io .errTerm odd → exec (.inErrTerm odd w) s = ret (s.regs.errTerm.extractLsb' 0 16)) ∧
      (portOpen s .io .majAxisPcnt odd → exec (.inMajAxisPcnt odd w) s = ret (0#4 ++ s.regs.majAxisPcnt)) ∧
      (portOpen s .io .shortStroke odd → exec (.inShortStroke odd w) s = ret s.regs.shortStroke) ∧
      (portOpen s .io .bkgdColor odd → exec (.inBkgdColor odd w) s = ret (colour s.regs.bkgdColor)) ∧
      (portOpen s .io .frgdColor odd → exec (.inFrgdColor odd w) s = ret (colour s.regs.frgdColor)) ∧
      (portOpen s .io .wrtMask odd → exec (.inWrtMask odd w) s = ret (colour s.regs.wrtMask)) ∧
      (portOpen s .io .rdMask odd → exec (.inRdMask odd w) s = ret (colour s.regs.rdMask)) ∧
      (portOpen s .io .colorCmp odd → exec (.inColorCmp odd w) s = ret (colour s.regs.colorCmp)) ∧
      (portOpen s .io .bkgdMix odd → exec (.inBkgdMix odd w) s = ret s.regs.bkgdMix) ∧
      (portOpen s .io .frgdMix odd → exec (.inFrgdMix odd w) s = ret s.regs.frgdMix) ∧
      (portOpen s .io .curY2 odd → exec (.inCurY2 odd w) s = ret (s.regs.curY2.extractLsb' 0 16)) ∧
      (portOpen s .io .curX2 odd → exec (.inCurX2 odd w) s = ret (s.regs.curX2.extractLsb' 0 16)) ∧
      (portOpen s .io .desty2 odd → exec (.inDesty2 odd w) s = ret (s.regs.desty2.extractLsb' 0 16)) ∧
      (portOpen s .io .destx2 odd → exec (.inDestx2 odd w) s = ret (s.regs.destx2.extractLsb' 0 16))

/-- A read of MULTIFUNC returns the entry the pointer selects; a 16-bit or high-byte read advances the pointer
modulo 16 and leaves the other bits of entry 0xF (R172). -/
def Obligations.MultifuncReads : Prop :=
  ∀ (s : State), readsNow s →
    let ptr := (s.regs.mf 0xF).extractLsb' 0 4
    let val : Half := 0#4 ++ s.regs.mf ptr
    let next : Regs := s.regs.setMf 0xF ((s.regs.mf 0xF).extractLsb' 4 8 ++ (ptr + 1))
    (portOpen s .io .multifunc false →
      exec (.inMultifunc false .w16) s = .next { s with
          regs := next, host := { s.host with history := .readReturned .w16 (val.setWidth 32) :: s.host.history } } ∧
        exec (.inMultifunc false .w8) s = .next { s with
          host := { s.host with
            history := .readReturned .w8 ((val.extractLsb' 0 8).setWidth 32) :: s.host.history } }) ∧
    (portOpen s .io .multifunc true →
      exec (.inMultifunc true .w8) s = .next { s with
        regs := next
        host := { s.host with
          history := .readReturned .w8 ((val.extractLsb' 8 8).setWidth 32) :: s.host.history } })

/-- GP_STAT: the free-slot thermometer, data_available and busy, other bits 0 (R140); SUBSYS_STAT: the four status
bits (R141). Neither read changes a register (R173, R174). The interrupt output is the OR of the enabled status
bits (R406). -/
def Obligations.StatusReads : Prop :=
  ∀ (s : State) (odd : Bool) (w : Width) (part : RegPart),
    formOf odd w = some part → readsNow s →
      let ret : Half → Result := fun r =>
        let val : Word :=
          match part with
          | .lo => (r.extractLsb' 0 8).setWidth 32
          | .hi => (r.extractLsb' 8 8).setWidth 32
          | .word => r.setWidth 32
        .next { s with host := { s.host with history := .readReturned w val :: s.host.history } }
      (s.irq = true ↔ ∃ b, b < 4 ∧ s.regs.subsysStat.getLsbD b = true ∧ s.regs.subsysEn.getLsbD b = true) ∧
      (portOpen s .io .cmd odd → ∃ g : Half, exec (.inGpStat odd w) s = ret g ∧
        (∀ j : Nat, j < 8 →
          (g.getLsbD j = true ↔ (65536 - 4 : Int) - (s.fifo.writeIdx - s.fifo.readIdx).toNat < 8 - j)) ∧
        g.getLsbD 8 = s.eng.dataAvailable ∧
        (g.getLsbD 9 = true ↔
          s.eng.active = true ∨ s.fifo.busy = true ∨ 0 < (s.fifo.writeIdx - s.fifo.readIdx).toNat) ∧
        ∀ j : Nat, 10 ≤ j → g.getLsbD j = false) ∧
      (portOpen s .io .subsys odd → exec (.inSubsysStat odd w) s = ret (0#12 ++ s.regs.subsysStat))

/-- While no read-back is in progress a read of the pixel-transfer port returns the staging bytes from its lane on
and changes nothing; it is one operation at the base of the port, and elsewhere the first byte is kept and the
parts after it wait (R175, R86). -/
def Obligations.PixTransReads : Prop :=
  ∀ (s : State) (lane : BitVec 2), named s .io (pixPortLo + lane.toNat) → readsNow s →
    (s.eng.active = true → s.eng.cls = 2 → cmdPcdata s.eng.cmd = true → cmdWrtdata s.eng.cmd = true) →
      let byte : Nat → Byte := fun k => s.regs.pixTrans.toList.getD ((lane.toNat + k) % 4) 0
      let ret : Width → Word → Result := fun w v =>
        .next { s with host := { s.host with history := .readReturned w v :: s.host.history } }
      exec (.inPixTrans lane .w8) s = ret .w8 ((byte 0).setWidth 32) ∧
      (lane = 0 → exec (.inPixTrans lane .w16) s = ret .w16 ((byte 1 ++ byte 0).setWidth 32)) ∧
      (lane = 0 → exec (.inPixTrans lane .w32) s = ret .w32 (byte 3 ++ (byte 2 ++ (byte 1 ++ byte 0)))) ∧
      (lane ≠ 0 → ∀ w, w ≠ .w8 → exec (.inPixTrans lane w) s = .next { s with host := { s.host with
        acc := (byte 0).setWidth 32
        pending := pixTail lane.toNat (.read w) ++ s.host.pending } })

/-- During a rectangle read-back a byte read returns the next byte of the stream. A buffered byte is removed, and
the last byte of the last pixel ends the operation; where none is buffered the pixel at the walk's position is
fetched first, whatever the clip, the compare, the mixes and the masks hold, and the walk advances (R286, R285,
R175). A 16-bit or 32-bit read at the base of the port is its bytes in order. -/
def Obligations.ReadBackBytes : Prop :=
  ∀ (s : State) (lane : BitVec 2), named s .io (pixPortLo + lane.toNat) → readsNow s →
    s.eng.active = true → s.eng.cls = 2 → cmdPcdata s.eng.cmd = true → cmdWrtdata s.eng.cmd = false →
      (∀ b bs, s.eng.rb = b :: bs →
        exec (.inPixTrans lane .w8) s = .next { s with
          host := { s.host with history := .readReturned .w8 (b.setWidth 32) :: s.host.history }
          eng := if bs = [] ∧ s.eng.rbEnded = true then
              { s.eng with rb := bs, dataAvailable := false, active := false }
            else { s.eng with rb := bs }
          regs := if bs = [] ∧ s.eng.rbEnded = true then
              { s.regs with
                curY := BitVec.ofNat 32 (reduce s.cfg (s.eng.cy + dirY s.eng.cmd))
                subsysStat := s.regs.subsysStat ||| 2#4 }
            else s.regs }) ∧
      (s.eng.rb = [] →
        let d := readPixel s.cfg s.vram (destIndex s s.eng.cx s.eng.cy)
        let bytes := (List.range (pixelBytes s.cfg.depth)).map fun k => d.extractLsb' (8 * k) 8
        exec (.inPixTrans lane .w8) s = exec (.inPixTrans lane .w8) { s with eng :=
          if 0 < s.eng.sx then
            { s.eng with rb := bytes, cx := s.eng.cx + dirX s.eng.cmd, sx := s.eng.sx - 1 }
          else if 0 < s.eng.sy then
            { s.eng with
              rb := bytes, cx := s.eng.x0, cy := s.eng.cy + dirY s.eng.cmd, sx := s.eng.w, sy := s.eng.sy - 1
              cpuBits := [], cpuPix := [] }
          else { s.eng with rb := bytes, rbEnded := true } }) ∧
      (let gives : BitVec 2 → State → Byte → State → Prop := fun l a b z =>
        z.host = a.host ∧ exec (.inPixTrans l .w8) a = .next (returnRead .w8 (b.setWidth 32) z)
      (∀ l : BitVec 2, named s .io (pixPortLo + l.toNat)) →
        ∃ b0 b1 b2 b3 s1 s2 s3 s4, gives 0 s b0 s1 ∧ gives 1 s1 b1 s2 ∧ gives 2 s2 b2 s3 ∧ gives 3 s3 b3 s4 ∧
          exec (.inPixTrans 0 .w16) s = .next (returnRead .w16 ((b1 ++ b0).setWidth 32) s2) ∧
          exec (.inPixTrans 0 .w32) s = .next (returnRead .w32 (b3 ++ (b2 ++ (b1 ++ b0))) s4))

/-- An access at which nothing is mapped is open bus, whatever its width, and is never queued or held: a port
outside the map and its window offset, a second-point register the chip lacks, by port or window offset, the
upper middle range of the new window (R112). -/
def Obligations.Unmapped : Prop :=
  ∀ (s : State) (w : Width) (v : Word),
    let ones : State := { s with host := { s.host with history := .readReturned w (widthMask w) :: s.host.history } }
    (∀ port : BitVec 16, named s .io port.toNat →
      (∀ k, k < widthBytes w → isPort (port.toNat + k) = false) →
        exec (.ioUnmapped port (.write w v)) s = .next s ∧ exec (.ioUnmapped port (.read w)) s = .next ones) ∧
    (∀ (r : PortReg) (odd : Bool), isSecondPoint r = true → hasSecondPoint s.cfg.cap = false →
      named s .io (portAddr r odd) →
        exec (outInstr r odd w v) s = .next s ∧ exec (inInstr r odd w) s = .next ones) ∧
    (∀ off : BitVec 17, reaches s.cfg s.inputs .newMmio = true → 0x10000 ≤ off.toNat →
      off.toNat + widthBytes w ≤ 0x18000 →
        exec (.mmioUnmapped off (.write w v)) s = .next s ∧ exec (.mmioUnmapped off (.read w)) s = .next ones) ∧
    (∀ (win : Window) (off : BitVec 17), named s win.space off.toNat → 0x8000 ≤ off.toNat →
      off.toNat + widthBytes w ≤ 0x10000 → (∀ k, k < widthBytes w → isPort (off.toNat + k) = false) →
      (w = .w32 → noPacked s win.space off.toNat) →
        exec (.mmioReg win off (.write w v)) s = .next s ∧ exec (.mmioReg win off (.read w)) s = .next ones) ∧
    (∀ (win : Window) (r : PortReg) (odd : Bool), isSecondPoint r = true → hasSecondPoint s.cfg.cap = false →
      named s win.space (portAddr r odd) → (w = .w32 → noPacked s win.space (portAddr r odd)) →
        exec (regWrite win.space r odd w v) s = .next s ∧ exec (regRead win.space r odd w) s = .next ones)

/-- Every operation whose space is not enabled is not seen by the block: a write is dropped, a read returns all ones
(R89). -/
def Obligations.NotReached : Prop :=
  ∀ (i : Instr) (s : State),
    (match (accessOf i).1 with
      | .io => s.inputs.ioEnabled = false
      | .legacyMmio => ¬ (s.cfg.cap.hasLegacyMmio = true ∧ s.inputs.legacyMmioEnabled = true)
      | .newMmio => ¬ (s.cfg.cap.hasNewMmio = true ∧ s.inputs.newMmioEnabled = true)) →
      exec i s =
        match (accessOf i).2.2 with
        | .write _ _ => .next s
        | .read w => .next { s with host := { s.host with
            history := .readReturned w (match w with | .w8 => 0xFF | .w16 => 0xFFFF | .w32 => 0xFFFFFFFF) ::
              s.host.history } }

/-- An MMIO access at an offset from 0x8000 to 0xFFFF that is a port of a register is the port access, in both
windows; it completes for every register but the two whose write may start drawing (R115, R116). An access at a
second name, by port or window offset, is the access at the port it stands for (R111; where second names apply
is assumption log entry 19). -/
def Obligations.MmioRegisters : Prop :=
  (∀ (s : State) (win : Window) (r : PortReg) (odd : Bool) (w : Width) (v : Word) (part : RegPart),
    formOf odd w = some part → 0x8000 ≤ portAddr r odd → portOpen s win.space r odd →
    s.fifo.drained = true → s.queuing = false →
      (portOpen s .io r odd →
        exec (.mmioReg win (BitVec.ofNat 17 (portAddr r odd)) (.write w v)) s = exec (outInstr r odd w v) s ∧
        exec (.mmioReg win (BitVec.ofNat 17 (portAddr r odd)) (.read w)) s = exec (inInstr r odd w) s) ∧
      (∃ t, exec (.mmioReg win (BitVec.ofNat 17 (portAddr r odd)) (.read w)) s = .next t) ∧
      (r ≠ .cmd → r ≠ .shortStroke →
        ∃ t, exec (.mmioReg win (BitVec.ofNat 17 (portAddr r odd)) (.write w v)) s = .next t)) ∧
    (∀ (s : State) (i j : Instr) (sp : Space) (a p : Nat) (act : BusAction),
      accessOf i = (sp, a, act) → accessOf j = (sp, p, act) → (sp = .io ∨ (0x8000 ≤ a ∧ a < 0x10000)) →
      findAlias a s.cfg.aliases = some p → findAlias p s.cfg.aliases = none → exec i s = exec j s)

/-- An MMIO access at an offset below 0x8000 is one pixel-transfer access of its width, whatever the offset (R115,
R116): a write is that of the port's base, a read that of its lane by byte; a wider read is the byte reads of
its lane and the lanes after it in order, which outside a read-back are the staging bytes (R175). A read
completes, and so does a write while no operation takes its data. That this holds where the session's packed_map
lists the offset of a 32-bit access, which R115 would have be a packed write, is assumption log entry 26, and
for an access that runs past 0x7FFF log entry 18: both are the model's choice. -/
def Obligations.MmioPixels : Prop :=
  ∀ (s : State) (win : Window) (off : BitVec 17) (w : Width) (v : Word),
    off.toNat < 0x8000 → reaches s.cfg s.inputs win.space = true →
    s.fifo.drained = true → s.queuing = false →
      let lane : BitVec 2 := off.extractLsb' 0 2
      let byte : Nat → Byte := fun k => s.regs.pixTrans.toList.getD ((lane.toNat + k) % 4) 0
      let reading : Prop := s.eng.active = true ∧ s.eng.cls = 2 ∧ cmdPcdata s.eng.cmd = true ∧
        cmdWrtdata s.eng.cmd = false
      let gives : BitVec 2 → State → Byte → State → Prop := fun l a b z =>
        z.host = a.host ∧ exec (.inPixTrans l .w8) a = .next (returnRead .w8 (b.setWidth 32) z)
      (named s .io pixPortLo → exec (.mmioPixTrans win off (.write w v)) s = exec (.outPixTrans 0 w v) s) ∧
      (named s .io (pixPortLo + lane.toNat) → w = .w8 ∨ lane = 0 →
        exec (.mmioPixTrans win off (.read w)) s = exec (.inPixTrans lane w) s) ∧
      ((∀ l : BitVec 2, named s .io (pixPortLo + l.toNat)) →
        ∃ b0 b1 b2 b3 s1 s2 s3 s4, gives lane s b0 s1 ∧ gives (lane + 1) s1 b1 s2 ∧ gives (lane + 2) s2 b2 s3 ∧
          gives (lane + 3) s3 b3 s4 ∧
          exec (.mmioPixTrans win off (.read w)) s = .next (match w with
            | .w8 => returnRead .w8 (b0.setWidth 32) s1
            | .w16 => returnRead .w16 ((b1 ++ b0).setWidth 32) s2
            | .w32 => returnRead .w32 (b3 ++ (b2 ++ (b1 ++ b0))) s4)) ∧
      (¬ reading → exec (.mmioPixTrans win off (.read w)) s = .next (returnRead w (match w with
        | .w8 => (byte 0).setWidth 32
        | .w16 => (byte 1 ++ byte 0).setWidth 32
        | .w32 => byte 3 ++ (byte 2 ++ (byte 1 ++ byte 0))) s)) ∧
      (∃ t, exec (.mmioPixTrans win off (.read w)) s = .next t) ∧
      (s.eng.active = false → ∃ t, exec (.mmioPixTrans win off (.write w v)) s = .next t)

/-- An access of the new window at 0x18000 or above that reaches the block belongs to the streams engine and is
refused by name (R92); where the window is not enabled it is dropped like any other, a read returning all ones
(R89). -/
def Obligations.StreamsRefused : Prop :=
  ∀ (s : State) (off : BitVec 17) (act : BusAction), 0x18000 ≤ off.toNat →
    (reaches s.cfg s.inputs .newMmio = true → exec (.mmioStreams off act) s = .refused .streamsEngine) ∧
    (reaches s.cfg s.inputs .newMmio = false → exec (.mmioStreams off act) s =
      match act with
      | .write _ _ => .next s
      | .read w => .next { s with host := { s.host with
          history := .readReturned w (match w with | .w8 => 0xFF | .w16 => 0xFFFF | .w32 => 0xFFFFFFFF) ::
            s.host.history } })

/-- A write that is no access of one register is performed part by part: its first part now, the others waiting as
bus operations of their own, in address order (R86, R95). So are, in every space, the 16-bit write at a
register's odd byte and the 32-bit writes at either byte, and any other wide write; where the first part is
held, all of them wait. The host's step on a waiting part decides of it what its own address reaches, where
nothing is decided yet, and performs it: into the FIFO or dispatched; or it waits with what was decided (R150,
R192, R198). How parts wait is assumption log entries 18 and 34, that the host goes on where no turn is chosen
log entry 3. -/
def Obligations.SplitWrites : Prop :=
  ∀ (s : State) (sp : Space),
    (∀ (r : PortReg) (v : Word),
      let split : Bool → Width → Width → Word → List (Nat × Width) → Prop := fun odd w nw u rest =>
        exec (regWrite sp r odd w v) s =
          exec (regWrite sp r odd nw u) (pushParts (partsOf sp (portAddr r odd) (.write w v) rest) s)
      present s r → (sp ≠ .io → 0x8000 ≤ portOf r) →
      (s.fifo.drained = true ∨
        (s.queuing = true ∧ r ≠ .subsys ∧ r ≠ .advfunc ∧ s.fifo.entries < 65536 - 4)) →
        (named s sp (portOf r + 1) → split true .w16 .w8 (v &&& 0xFF) [(1, .w8)]) ∧
        (named s sp (portOf r) → noPacked s sp (portOf r) → split false .w32 .w16 (v &&& 0xFFFF) [(2, .w16)]) ∧
        (named s sp (portOf r + 1) → noPacked s sp (portOf r + 1) →
          split true .w32 .w8 (v &&& 0xFF) (oddLanes s r))) ∧
    (∀ (i j : Instr) (a : Nat) (w : Width) (v : Word),
      accessOf i = (sp, a, .write w v) → named s sp a → oneAccess s sp a w = false →
        let nw := firstWidth s sp a w
        let p : Part := ⟨sp, a, .write nw (v &&& widthMask nw), 0, w, false, none⟩
        let rest := partsOf sp a (.write w v) (restLanes s sp a w)
        (s.held p = true → exec i s = .next { s with host := { s.host with
          pending := { p with decided := some (s.decideNow p) } :: (rest ++ s.host.pending) } }) ∧
        (s.held p = false → accessOf j = (sp, a, .write nw (v &&& widthMask nw)) →
          exec i s = exec j (pushParts rest s))) ∧
    (∀ (p : Part) (ps : List Part) (w : Width) (v : Word) (ts : List Turn),
      s.host.pending = p :: ps → (s.host.sched = .host :: ts ∨ (s.host.sched = [] ∧ ts = [])) → p.act = .write w v →
        let u : State := { s with host := { s.host with pending := ps, sched := ts } }
        let d := s.decisionOf p
        (p.decided = none → d.target = resolve s.cfg s.inputs p.space p.addr w ∧
          (d.route = .queued ↔ queueable d.target = true ∧ s.queuing = true)) ∧
        (s.held p = false → step s =
          if d.route = .queued then .next { u with fifo := s.fifo.push (entryOf p.space p.addr w v d.target) }
          else dispatch d.target w v u) ∧
        (p.decided = none → s.held p = true → step s = .next { u with host := { u.host with
          pending := { p with decided := some d } :: ps } }))

/-- A read that is no access of one register is performed part by part: its first part now, whose value is kept, the
others waiting in address order (R86, R95): in every space the 16-bit read at a register's odd byte, the 32-bit
reads at either byte, the wide reads of the pixel-transfer port beside its base, from the staging bytes or a
read-back, and any other wide read. The step that performs a waiting part adds its bytes at its lane, and with
the last part the whole value returns (R170, R84); a part found held waits with what was decided of it (R103).
How parts wait is assumption log entries 18, 24 and 34, that the host goes on where no turn is chosen log entry
3. -/
def Obligations.SplitReads : Prop :=
  ∀ (s : State),
    (∀ (sp : Space) (r : PortReg),
      let split : Bool → Width → Width → RegPart → List (Nat × Width) → Prop := fun odd w nw part rest =>
        let z := readReg r part s
        exec (regRead sp r odd nw) s = .next (returnRead nw z.1 z.2) ∧
        exec (regRead sp r odd w) s = .next { z.2 with host := { s.host with
          acc := z.1
          pending := partsOf sp (portAddr r odd) (.read w) rest ++ s.host.pending } }
      present s r → (sp ≠ .io → 0x8000 ≤ portOf r) → readsNow s →
        (named s sp (portOf r + 1) → split true .w16 .w8 .hi [(1, .w8)]) ∧
        (named s sp (portOf r) → noPacked s sp (portOf r) → split false .w32 .w16 .word [(2, .w16)]) ∧
        (named s sp (portOf r + 1) → noPacked s sp (portOf r + 1) → split true .w32 .w8 .hi (oddLanes s r))) ∧
    (∀ (p : Part) (ps : List Part) (w : Width) (ts : List Turn),
      s.host.pending = p :: ps → (s.host.sched = .host :: ts ∨ (s.host.sched = [] ∧ ts = [])) → p.act = .read w →
        let u : State := { s with host := { s.host with pending := ps, sched := ts } }
        let d := s.decisionOf p
        let z := readValue d.target w u
        let v := if p.lane = 0 then z.1 else s.host.acc ||| (z.1 <<< (8 * p.lane))
        (p.decided = none → d.target = resolve s.cfg s.inputs p.space p.addr w ∧
          (d.route = .drained ↔ s.enableFifo = true ∧ d.target ≠ .unmapped ∧ d.target ≠ .streams) ∧
          d.route ≠ .queued) ∧
        (s.held p = false → d.target = .streams → step s = .refused .streamsEngine) ∧
        (s.held p = false → d.target ≠ .streams → p.last = true → step s = .next (returnRead p.whole v z.2)) ∧
        (s.held p = false → d.target ≠ .streams → p.last = false →
          step s = .next { z.2 with host := { u.host with acc := v } }) ∧
        (p.decided = none → s.held p = true → step s = .next { u with host := { u.host with
          pending := { p with decided := some d } :: ps } })) ∧
    (∀ (lane : BitVec 2) (w : Width), named s .io (pixPortLo + lane.toNat) → readsNow s → lane ≠ 0 → w ≠ .w8 →
      ∃ (b : Byte) (t : State), t.host = s.host ∧
        exec (.inPixTrans lane .w8) s = .next (returnRead .w8 (b.setWidth 32) t) ∧
        exec (.inPixTrans lane w) s = .next { t with host := { s.host with
          acc := b.setWidth 32
          pending := pixTail lane.toNat (.read w) ++ s.host.pending } }) ∧
    (∀ (i j : Instr) (sp : Space) (a : Nat) (w : Width),
      accessOf i = (sp, a, .read w) → named s sp a → oneAccess s sp a w = false →
        let nw := firstWidth s sp a w
        let p : Part := ⟨sp, a, .read nw, 0, w, false, none⟩
        let rest := partsOf sp a (.read w) (restLanes s sp a w)
        (s.held p = true → exec i s = .next { s with host := { s.host with
          pending := { p with decided := some (s.decideNow p) } :: (rest ++ s.host.pending) } }) ∧
        (s.held p = false → accessOf j = (sp, a, .read nw) →
          ∃ (v : Word) (t : State), t.host = s.host ∧ exec j s = .next (returnRead nw v t) ∧
            exec i s = .next { t with host := { s.host with acc := v, pending := rest ++ s.host.pending } }))

/-- While writes are queued, a write of a queued register appends one entry, tag and address then value, and touches
nothing else; with the queue full the write holds and only waits, whole and decided to be queued (R192, R191,
R145); that a held access is kept so, and answers a next state, is assumption log entry 34. -/
def Obligations.Enqueue : Prop :=
  ∀ (i : Instr) (s : State) (sp : Space) (a : Nat) (w : Width) (v : Word),
    accessOf i = (sp, a, .write w v) → named s sp a → queueable (resolve s.cfg s.inputs sp a w) = true →
    s.cfg.cap.fifoCapable = true → (s.cfg.cap.fifoAlwaysOn = true ∨ s.inputs.fifoMode = true) →
    s.regs.advfunc.getLsbD 0 = true →
      let tag : Byte := match sp, w with
        | .io, .w8 => 4 | .io, .w16 => 5 | .io, .w32 => 6
        | _, .w8 => 1 | _, .w16 => 2 | _, .w32 => 3
      (s.fifo.entries < 65536 - 4 → exec i s = .next { s with fifo := { s.fifo with
          ring := writeSlot s.fifo.ring (s.fifo.writeIdx.toNat % 65536)
            ⟨tag ++ BitVec.ofNat 24 a, v &&& widthMask w, isPacked (resolve s.cfg s.inputs sp a w)⟩
          writeIdx := s.fifo.writeIdx + 1 } }) ∧
      (65536 - 4 ≤ s.fifo.entries →
        let p : Part := ⟨sp, a, .write w (v &&& widthMask w), 0, w, true,
          some ⟨resolve s.cfg s.inputs sp a w, .queued⟩⟩
        exec i s = .next { s with host := { s.host with pending := p :: s.host.pending } } ∧ s.waits p = true)

/-- The queue is first in, first out: an append puts the entry at the end, a pop takes the one at the front and
leaves the others (R196, R200, R193). -/
def Obligations.QueueOrder : Prop :=
  ∀ (f : Fifo) (e : FifoEntry),
    (f.entries < 65536 → (f.push e).queue = f.queue ++ [e] ∧ (f.push e).entries = f.entries + 1) ∧
    (0 < f.entries → f.queue = f.head :: ({ f with readIdx := f.readIdx + 1 } : Fifo).queue ∧
      ({ f with readIdx := f.readIdx + 1 } : Fifo).entries + 1 = f.entries)

/-- A turn of the engine takes the entry at the head of the queue, applies it through the path of a direct write,
and raises FIFO_EMPTY when it leaves the queue empty; with an empty queue the engine has no step (R194, R195). -/
def Obligations.DrainStep : Prop :=
  ∀ (s : State) (ts : List Turn), s.host.sched = .engine :: ts →
    let u : State := { s with host := { s.host with sched := ts } }
    (0 < s.fifo.entries → ∀ t, applyEntry s.fifo.head
          { u with fifo := { s.fifo with readIdx := s.fifo.readIdx + 1, busy := true } } = .next t →
        step s = .next { t with
          fifo := { t.fifo with busy := false }
          regs := { t.regs with subsysStat :=
            if s.fifo.entries = 1 then t.regs.subsysStat ||| 8#4 else t.regs.subsysStat } }) ∧
    (s.fifo.entries = 0 → step s = .next u)

/-- A queued write is applied as the same write performed directly: the entry made of a write, whatever the
session's packed map, is dispatched to what the write's address reached when it was queued, and neither the
session's capabilities nor the signals of the drain step are asked again (R101, R145, R402; what an entry holds
for it is assumption log entry 21). -/
def Obligations.DrainAsDirect : Prop :=
  ∀ (s : State) (inp : Inputs) (sp : Space) (a : Nat) (w : Width) (v : Word),
    a < 0x10000 → queueable (resolve s.cfg inp sp a w) = true →
      applyEntry (entryOf sp a w v (resolve s.cfg inp sp a w)) s =
        dispatch (resolve s.cfg inp sp a w) w (v &&& widthMask w) s

/-- In FIFO mode a read waits until the queue is drained, and a write that is not queued waits until it is empty:
only the waiting access is recorded, whole, with what it reaches and how it is performed (R197, R198, R102,
R103). -/
def Obligations.HostHolds : Prop :=
  ∀ (i : Instr) (s : State) (sp : Space) (a : Nat) (act : BusAction),
    accessOf i = (sp, a, act) → named s sp a →
    resolve s.cfg s.inputs sp a act.width ≠ .unmapped → resolve s.cfg s.inputs sp a act.width ≠ .streams →
    (0 < s.fifo.entries ∨ s.fifo.busy = true) →
    (match act with
      | .read _ => s.enableFifo = true
      | .write w _ => s.queuing = false ∨ queueable (resolve s.cfg s.inputs sp a w) = false) →
      let p : Part := ⟨sp, a,
        (match act with | .write w v => .write w (v &&& widthMask w) | .read w => .read w), 0, act.width, true,
        some ⟨resolve s.cfg s.inputs sp a act.width, .drained⟩⟩
      exec i s = .next { s with host := { s.host with pending := p :: s.host.pending } } ∧ s.waits p = true

/-- While an access is held and the environment chooses nothing, the step is a drain: only the engine moves. Input
signals neither lift nor make a hold, a turn of the host changes nothing while it lasts, and once it is lifted
the access is performed as it was decided when the host came to it, whatever the signals are by then (R201, R13,
R102, R103). -/
def Obligations.HeldProgress : Prop :=
  (∀ (s : State) (p : Part) (ps : List Part),
    FifoOk s → s.host.sched = [] → s.host.pending = p :: ps → s.waits p = true →
      0 < s.fifo.entries ∧ step s = drain s ∧
        ∀ t, step s = .next t → t.fifo.entries + 1 = s.fifo.entries ∧ t.host.pending = p :: ps) ∧
    (∀ (s : State) (p : Part) (inp : Inputs), p.decided ≠ none →
      ({ s with inputs := inp } : State).waits p = s.waits p) ∧
    (∀ (s : State) (p : Part) (ps : List Part) (d : Decision) (ts : List Turn),
      s.host.pending = p :: ps → s.host.sched = .host :: ts → p.decided = some d →
        (s.waits p = true → step s = .next { s with host := { s.host with sched := ts } }) ∧
        (s.waits p = false →
          let u : State := { s with host := { s.host with pending := ps, sched := ts } }
          (∀ w v, p.act = .write w v → step s =
            if d.route = .queued then .next { u with fifo := s.fifo.push (entryOf p.space p.addr w v d.target) }
            else dispatch d.target w v u) ∧
          (∀ w, p.act = .read w → d.target ≠ .streams → p.last = true → p.lane = 0 →
            step s = .next (returnRead p.whole (readValue d.target w u).1 (readValue d.target w u).2))))

/-- A visited pixel changes no register, nothing of the working state but the CPU data and the byte-doubling phase,
and at most the bytes of its own destination pixel; it consumes one mix bit or one CPU pixel of an operation fed
by the CPU, clipped or not; and VRAM stays as it is where the pixel fails the clip test, where drawing is
disabled or suppressed, and where the write mask lets no bit through (R210 to R213, R230, R231). -/
def Obligations.PixelFrame : Prop :=
  ∀ (s : State) (x y : Int) (v p : Option Word) (sup : Bool),
    let t := pixel x y v p sup s
    let inside : Prop := (s.regs.mf 2).toNat ≤ reduce s.cfg x ∧ reduce s.cfg x ≤ (s.regs.mf 4).toNat ∧
      (s.regs.mf 1).toNat ≤ reduce s.cfg y ∧ reduce s.cfg y ≤ (s.regs.mf 3).toNat
    t.regs = s.regs ∧ t.fifo = s.fifo ∧ t.host = s.host ∧ t.cfg = s.cfg ∧ t.inputs = s.inputs ∧
    t.eng = { s.eng with cpuBits := t.eng.cpuBits, cpuPix := t.eng.cpuPix, phase16 := t.eng.phase16 } ∧
    (byteDoubled s.cfg = false → t.eng.phase16 = s.eng.phase16) ∧
    sameOutside s t [(x, y)] ∧
    (takesCpu s.eng.cmd = true →
      t.eng.cpuBits = (if s.regs.mixSel = 2 then s.eng.cpuBits.tail else s.eng.cpuBits) ∧
      t.eng.cpuPix = (if s.regs.mixSel = 2 then s.eng.cpuPix else s.eng.cpuPix.tail)) ∧
    (takesCpu s.eng.cmd = false → t.eng.cpuBits = s.eng.cpuBits ∧ t.eng.cpuPix = s.eng.cpuPix) ∧
    ((inside ↔ (s.regs.mf 0xE).getLsbD 5 = true) → t.vram = s.vram) ∧
    (cmdDraw s.eng.cmd = false ∨ sup = true → t.vram = s.vram) ∧
    (Memory.wf s.vram = true → s.regs.wrtMask &&& pixelMask s.cfg.depth = 0 →
      ∀ a, Memory.read t.vram a = Memory.read s.vram a)

/-- A pixel that passes the clip test and is drawn gets the mix of its source and itself under the write mask, or
the ROP3 of pattern, source and itself in a ROPBlt, unless the colour compare skips it (R210, R213 to R216,
R230, R321). The mix bit is 1, a CPU bit, or the comparison with RD_MASK; the free mix bit of an operation
without CPU data is left out. -/
def Obligations.PixelResult : Prop :=
  ∀ (s : State) (x y : Int) (v p : Option Word),
    MemOk s → pixelBytes s.cfg.depth ≤ 2 ^ s.cfg.vramBits → s.cfg.ropSource = .mixNibbles →
    cmdDraw s.eng.cmd = true →
    ¬ (((s.regs.mf 2).toNat ≤ reduce s.cfg x ∧ reduce s.cfg x ≤ (s.regs.mf 4).toNat ∧
      (s.regs.mf 1).toNat ≤ reduce s.cfg y ∧ reduce s.cfg y ≤ (s.regs.mf 3).toNat) ↔
        (s.regs.mf 0xE).getLsbD 5 = true) →
      let pm := pixelMask s.cfg.depth
      let d := readPixel s.cfg s.vram (destIndex s x y)
      ∀ bit : Bool,
        (s.regs.mixSel = 0 ∨ s.regs.mixSel = 1 → bit = true) →
        (s.regs.mixSel = 2 → takesCpu s.eng.cmd = true ∧ ∃ bs, s.eng.cpuBits = bit :: bs) →
        (s.regs.mixSel = 3 →
          bit = decide (v.getD d &&& s.regs.rdMask &&& pm = s.regs.rdMask &&& pm)) →
          let m := if bit then s.regs.frgdMix else s.regs.bkgdMix
          ∀ src : Word,
            (mixSource m = 0 → src = s.regs.bkgdColor &&& pm) →
            (mixSource m = 1 → src = s.regs.frgdColor &&& pm) →
            (mixSource m = 2 → s.takesCpuPix = true ∧ ∃ c cs, s.eng.cpuPix = c :: cs ∧ src = c &&& pm) →
            (mixSource m = 3 → src = v.getD d) →
              let skip : Prop :=
                ((s.regs.mf 0xE).extractLsb' 7 2 = 2 ∧ src &&& pm = s.regs.colorCmp &&& pm) ∨
                ((s.regs.mf 0xE).extractLsb' 7 2 = 3 ∧ src &&& pm ≠ s.regs.colorCmp &&& pm)
              let r := if s.eng.cls = 4 then
                  rop3 pm (s.regs.frgdMix.extractLsb' 0 4 ++ s.regs.bkgdMix.extractLsb' 0 4) (p.getD 0) src d
                else mixFn pm (m.extractLsb' 0 4) src d
              (skip → (pixel x y v p false s).vram = s.vram) ∧
              (¬ skip → readPixel s.cfg (pixel x y v p false s).vram (destIndex s x y) =
                ((r &&& s.regs.wrtMask) ||| (d &&& ~~~s.regs.wrtMask)) &&& pm)

/-- A pixel value written is read back, reduced to the pixel width, for every depth, remap and wrap of VRAM that
gives the pixel its bytes (R82, R81). -/
def Obligations.PixelRoundTrip : Prop :=
  ∀ (cfg : Config) (m : Memory) (i : Nat) (v : Word),
    Memory.wf m = true → pixelBytes cfg.depth ≤ 2 ^ cfg.vramBits →
      readPixel cfg (writePixel cfg m i v) i = v &&& pixelMask cfg.depth

/-- Each bit of a ROP3 result is the bit of the code at the index 4P + 2S + D (R221). -/
def Obligations.RopFormula : Prop :=
  ∀ (pm : Word) (code : BitVec 8) (p s d : Word) (b : Nat),
    (rop3 pm code p s d).getLsbD b =
      (pm.getLsbD b && code.getLsbD (4 * (p.getLsbD b).toNat + 2 * (s.getLsbD b).toNat + (d.getLsbD b).toNat))

/-- Every mix code computes the ROP3 function whose two nibbles are its truth table over 2S + D, whatever the
pattern; the sixteen codes 0 to 15 are the functions 0x55, 0x00, 0xFF, 0xAA, 0x33, 0x66, 0x99, 0xCC, 0x77, 0xBB,
0xDD, 0xEE, 0x88, 0x44, 0x22 and 0x11 (R322, R220, R221). -/
def Obligations.MixAsRop : Prop :=
  (∀ (pm : Word) (f : BitVec 4) (p s d : Word),
      let bit : Bool → Bool → Bool := fun a b =>
        (mixCode f (if a then BitVec.allOnes 32 else 0) (if b then BitVec.allOnes 32 else 0)).getLsbD 0
      let nib : BitVec 4 := BitVec.ofBool (bit true true) ++ (BitVec.ofBool (bit true false) ++
        (BitVec.ofBool (bit false true) ++ BitVec.ofBool (bit false false)))
      mixFn pm f s d = rop3 pm (nib ++ nib) p s d) ∧
    (∀ (pm p s d : Word) (f : BitVec 4) (code : BitVec 8),
      (f, code) ∈ [(0x0, 0x55), (0x1, 0x00), (0x2, 0xFF), (0x3, 0xAA), (0x4, 0x33), (0x5, 0x66), (0x6, 0x99),
        (0x7, 0xCC), (0x8, 0x77), (0x9, 0xBB), (0xA, 0xDD), (0xB, 0xEE), (0xC, 0x88), (0xD, 0x44), (0xE, 0x22),
        (0xF, 0x11)] → mixFn pm f s d = rop3 pm code p s d)

/-- A NOP stores CMD, drops the old operation and raises GE_DONE; nothing else changes, VRAM included (R250, R153,
R154). -/
def Obligations.NopCommand : Prop :=
  ∀ (s : State) (sp : Space) (o : CmdOpts), commandNow s sp → refusedCommand s false (cmdWord 0 o) = none →
    exec (.nop sp o) s = .next { commandState (cmdWord 0 o) s with regs := doneRegs s (cmdWord 0 o) }

/-- A Bresenham line without CPU data visits MAJ_AXIS_PCNT + 1 pixels in order, the last one unwritten where last-
pixel-null is honoured, and leaves the last position in CUR and the error term after the last step (R255, R257,
R248). -/
def Obligations.LineCommand : Prop :=
  ∀ (s : State) (sp : Space) (o : CmdOpts),
    let c := cmdWord 1 o
    commandNow s sp → o.radial = false → o.pcdata = false → refusedCommand s false c = none →
      let n := s.regs.majAxisPcnt.toNat
      let next := bresenham c s.regs.destyAxstp.toInt s.regs.destxDiastp.toInt
      let start : Int × Int × Int := (coord s.cfg s.regs.curX, coord s.cfg s.regs.curY, s.regs.errTerm.toInt)
      let last := after next n start
      ∃ t, exec (.line sp o) s = .next t ∧
        Finished s t
          (visitLine (s.cfg.lpnHonoured && o.lpn) (walkPixels next n start) (commandState c s)).vram
          { doneRegs s c with
            curX := BitVec.ofNat 32 (reduce s.cfg last.1)
            curY := BitVec.ofNat 32 (reduce s.cfg last.2.1)
            errTerm := BitVec.ofInt 32 last.2.2 } ∧
        sameOutside s t (walkPixels next n start)

/-- A radial line visits MAJ_AXIS_PCNT + 1 pixels in its direction and leaves the last position in CUR; ERR_TERM
stays (R260, R248). -/
def Obligations.RadialCommand : Prop :=
  ∀ (s : State) (sp : Space) (o : CmdOpts),
    let c := cmdWord 1 o
    commandNow s sp → o.radial = true → o.pcdata = false → refusedCommand s false c = none →
      let n := s.regs.majAxisPcnt.toNat
      let x : Int := coord s.cfg s.regs.curX
      let y : Int := coord s.cfg s.regs.curY
      let d := c.extractLsb' 5 3
      ∃ t, exec (.lineRadial sp o) s = .next t ∧
        Finished s t (visitLine (s.cfg.lpnHonoured && o.lpn) (rayPixels d n x y) (commandState c s)).vram
          { doneRegs s c with
            curX := BitVec.ofNat 32 (reduce s.cfg (x + n * ddx d))
            curY := BitVec.ofNat 32 (reduce s.cfg (y + n * ddy d)) } ∧
        sameOutside s t (rayPixels d n x y)

/-- A stroke under class NOP stores its byte, visits its length + 1 pixels in its direction with its own draw bit
and leaves the last position in CUR (R252, R155, R248); it takes no CPU data. -/
def Obligations.ShortStrokeCommand : Prop :=
  ∀ (s : State) (sp : Space) (hi : Bool) (dir : BitVec 3) (draw : Bool) (len : BitVec 4),
    let b : Byte := dir ++ (BitVec.ofBool draw ++ len)
    let c : Half := s.regs.cmd.extractLsb' 5 11 ++ (BitVec.ofBool draw ++ s.regs.cmd.extractLsb' 0 4)
    portOpen s sp .shortStroke hi → writesNow s → cmdClass s.regs.cmd = 0 → refusedCommand s true c = none →
      let x : Int := coord s.cfg s.regs.curX
      let y : Int := coord s.cfg s.regs.curY
      let u : State := { s with eng := { s.eng with cls := 0, cmd := c } }
      ∃ t, exec (.ssv sp hi dir draw len) s = .next t ∧
        t.vram = (visitAll plain (rayPixels dir len.toNat x y) u).vram ∧
        t.regs = { s.regs with
          shortStroke := if hi then b ++ s.regs.shortStroke.extractLsb' 0 8
            else s.regs.shortStroke.extractLsb' 8 8 ++ b
          curX := BitVec.ofNat 32 (reduce s.cfg (x + len.toNat * ddx dir))
          curY := BitVec.ofNat 32 (reduce s.cfg (y + len.toNat * ddy dir))
          subsysStat := s.regs.subsysStat ||| 2#4 } ∧
        t.eng.cls = 0 ∧ t.eng.cmd = c ∧ t.eng.active = s.eng.active ∧ t.eng.cpuBits = s.eng.cpuBits ∧ t.eng.cpuPix = s.eng.cpuPix ∧
        t.eng.pixCount = s.eng.pixCount ∧ t.eng.dataAvailable = s.eng.dataAvailable ∧
        sameContext s t ∧ sameOutside s t (rayPixels dir len.toNat x y)

/-- A rectangle fill without CPU data visits its columns and rows in row-major order in the directions of CMD and
leaves the row after the last in CUR_Y; CUR_X stays (R280, R248). -/
def Obligations.RectCommand : Prop :=
  ∀ (s : State) (sp : Space) (o : CmdOpts),
    let c := cmdWord 2 o
    commandNow s sp → o.pcdata = false → refusedCommand s false c = none →
      let w := s.regs.majAxisPcnt.toNat
      let h := (s.regs.mf 0).toNat
      let x : Int := coord s.cfg s.regs.curX
      let y : Int := coord s.cfg s.regs.curY
      ∃ t, exec (.rect sp o) s = .next t ∧
        Finished s t (visitAll plain (rectPixels c x y w h) (commandState c s)).vram
          { doneRegs s c with curY := BitVec.ofNat 32 (reduce s.cfg (y + (h + 1) * dirY c)) } ∧
        sameOutside s t (rectPixels c x y w h)

/-- A line, rectangle or BitBlt that takes or gives CPU data only starts: CMD is stored, no register is written, no
pixel is visited, the old data are gone, the geometry of its class is latched and the engine is busy; a read-
back says that data are available and has none buffered (R154, R281, R285, R255, R260, R280, R310). -/
def Obligations.CpuCommandsSuspend : Prop :=
  ∀ (s : State) (sp : Space) (o : CmdOpts), commandNow s sp → o.pcdata = true →
    let x : Int := coord s.cfg s.regs.curX
    let y : Int := coord s.cfg s.regs.curY
    let n : Int := s.regs.majAxisPcnt.toNat
    let h : Int := (s.regs.mf 0).toNat
    let waits : BitVec 3 → Instr → (Eng → Prop) → Prop := fun cls i geometry =>
      refusedCommand s false (cmdWord cls o) = none →
        ∃ t, exec i s = .next t ∧ t.vram = s.vram ∧ t.regs = { s.regs with cmd := cmdWord cls o } ∧
          t.eng.active = true ∧ t.eng.cls = cls ∧ t.eng.cmd = cmdWord cls o ∧
          t.eng.cpuBits = [] ∧ t.eng.cpuPix = [] ∧ t.eng.pixCount = 0 ∧
          t.eng.dataAvailable = (decide (cls = 2) && !o.wrtdata) ∧ t.gpStat.getLsbD 9 = true ∧ sameContext s t ∧
          geometry t.eng
    (o.radial = false → waits 1 (.line sp o) fun e => e.cx = x ∧ e.cy = y ∧ e.sy = n ∧
      e.err = s.regs.errTerm.toInt ∧ e.ax = s.regs.destyAxstp.toInt ∧ e.dia = s.regs.destxDiastp.toInt) ∧
    (o.radial = true → waits 1 (.lineRadial sp o) fun e => e.cx = x ∧ e.cy = y ∧ e.sy = n) ∧
    (o.wrtdata = true → waits 2 (.rectCpu sp o) fun e =>
      e.x0 = x ∧ e.cx = x ∧ e.cy = y ∧ e.w = n ∧ e.sx = n ∧ e.sy = h) ∧
    (o.wrtdata = false → waits 2 (.rectRead sp o) fun e =>
      e.x0 = x ∧ e.cx = x ∧ e.cy = y ∧ e.w = n ∧ e.sx = n ∧ e.sy = h ∧ e.rb = [] ∧ e.rbEnded = false) ∧
    waits 6 (.bitblt sp o) fun e => e.srcx0 = x ∧ e.srcx = x ∧ e.srcy = y ∧
      e.x0 = coord s.cfg s.regs.destxDiastp ∧ e.cx = coord s.cfg s.regs.destxDiastp ∧
      e.cy = coord s.cfg s.regs.destyAxstp ∧ e.w = n ∧ e.sx = n ∧ e.sy = h

/-- A polygon fills the inclusive spans between its two edges, one scanline for each row from its start to the lower
end row (none where that lies above), solid or with the 8x8 tile at the origin, and leaves both edges' positions
on the next row (R290, R291, R292, R248). -/
def Obligations.PolygonCommands : Prop :=
  ∀ (s : State) (sp : Space) (o : CmdOpts),
    let c := cmdWord 3 o
    commandNow s sp → s.cfg.cap.hasPolygon = true → refusedCommand s false c = none →
      let xa1 : Int := coord s.cfg s.regs.curX
      let ya1 : Int := coord s.cfg s.regs.curY
      let xb1 : Int := coord s.cfg s.regs.destxDiastp
      let yb1 : Int := coord s.cfg s.regs.destyAxstp
      let xa2 : Int := coord s.cfg s.regs.curX2
      let ya2 : Int := coord s.cfg s.regs.curY2
      let xb2 : Int := coord s.cfg s.regs.destx2
      let yb2 : Int := coord s.cfg s.regs.desty2
      let d1 := if yb1 = ya1 then 0 else ((xb1 - xa1) * 2 ^ 20).tdiv (yb1 - ya1)
      let d2 := if yb2 = ya2 then 0 else ((xb2 - xa2) * 2 ^ 20).tdiv (yb2 - ya2)
      let f1 := xa1 * 2 ^ 20
      let f2 := xa2 * 2 ^ 20 + d2 * (ya1 - ya2)
      let n := (min yb1 yb2 - ya1 + 1).toNat
      let ps := polyPixels n f1 d1 f2 d2 ya1
      ∀ i : Instr, (i = .polySolid sp o ∧ o.pat8 = false) ∨ (i = .polyPat sp o ∧ o.pat8 = true) →
        ∃ t, exec i s = .next t ∧
          Finished s t
            (visitAll (fun p u =>
                pixel p.1 p.2 (if o.pat8 then some (tileAt u 0 0 p) else none) none false u)
              ps (commandState c s)).vram
            { doneRegs s c with
              curX := BitVec.ofNat 32 (reduce s.cfg ((f1 + n * d1) / 2 ^ 20))
              curY := BitVec.ofNat 32 (reduce s.cfg (ya1 + n))
              curX2 := BitVec.ofNat 32 (reduce s.cfg ((f2 + n * d2) / 2 ^ 20))
              curY2 := BitVec.ofNat 32 (reduce s.cfg (ya1 + n)) } ∧
          sameOutside s t ps

/-- A two-point line visits as many pixels as the longer of its two differences, and one more, by the symmetric
Bresenham; it ends on its end point, which becomes the current position (R265, R248). -/
def Obligations.PolylineCommand : Prop :=
  ∀ (s : State) (sp : Space) (o : CmdOpts),
    let c := cmdWord 5 o
    commandNow s sp → s.cfg.cap.hasPolyline = true → refusedCommand s false c = none →
      let x0 : Int := coord s.cfg s.regs.curX
      let y0 : Int := coord s.cfg s.regs.curY
      let x1 : Int := coord s.cfg s.regs.destxDiastp
      let y1 : Int := coord s.cfg s.regs.destyAxstp
      let n := max (x1 - x0).natAbs (y1 - y0).natAbs
      let next := symmetric (x1 - x0).natAbs (y1 - y0).natAbs
        (if x0 ≤ x1 then 1 else -1) (if y0 ≤ y1 then 1 else -1)
      let start : Int × Int × Int := (x0, y0, ((x1 - x0).natAbs : Int) - (y1 - y0).natAbs)
      (after next n start).1 = x1 ∧ (after next n start).2.1 = y1 ∧
      ∃ t, exec (.polyline sp o) s = .next t ∧
        Finished s t
          (visitLine (s.cfg.lpnHonoured && o.lpn) (walkPixels next n start) (commandState c s)).vram
          { doneRegs s c with curX := BitVec.ofNat 32 (reduce s.cfg x1), curY := BitVec.ofNat 32 (reduce s.cfg y1) } ∧
        sameOutside s t (walkPixels next n start)

/-- A BitBlt without CPU data, and a pattern fill, walk the destination rectangle in the directions of CMD; the
source pixel of each step, from the moving source corner or from the 8x8 tile at the destination's phase, is
read after the writes of the steps before it. No register but CMD and the status is written (R310, R312, R315). -/
def Obligations.BlitCommands : Prop :=
  ∀ (s : State) (sp : Space) (o : CmdOpts), commandNow s sp →
    let w := s.regs.majAxisPcnt.toNat
    let h := (s.regs.mf 0).toNat
    let x : Int := coord s.cfg s.regs.curX
    let y : Int := coord s.cfg s.regs.curY
    let dx : Int := coord s.cfg s.regs.destxDiastp
    let dy : Int := coord s.cfg s.regs.destyAxstp
    let walks : Half → Instr → ((Int × Int) → State → Word) → Prop := fun c i source =>
      refusedCommand s false c = none →
        ∃ t, exec i s = .next t ∧
          Finished s t
            (visitAll (fun q u =>
                pixel (dx + q.1 * dirX c) (dy + q.2 * dirY c) (some (source q u)) none false u)
              (grid w h) (commandState c s)).vram
            (doneRegs s c) ∧
          sameOutside s t (rectPixels c dx dy w h)
    (o.pcdata = false →
      walks (cmdWord 6 o) (.bitblt sp o)
        (fun q u => sourceAt u (x + q.1 * dirX (cmdWord 6 o)) (y + q.2 * dirY (cmdWord 6 o)))) ∧
    walks (cmdWord 7 o) (.patfill sp o)
      (fun q u => tileAt u (coord s.cfg s.regs.curX) (coord s.cfg s.regs.curY)
        (dx + q.1 * dirX (cmdWord 7 o), dy + q.2 * dirY (cmdWord 7 o)))

/-- A ROPBlt walks as a BitBlt does, each pixel with its source pixel and its pattern: the tile at the second
position, or the foreground colour. No register but CMD and the status is written (R320). -/
def Obligations.RopbltCommand : Prop :=
  ∀ (s : State) (sp : Space) (o : CmdOpts),
    let c := cmdWord 4 o
    commandNow s sp → s.cfg.cap.hasRopblt = true → refusedCommand s false c = none →
      let w := s.regs.majAxisPcnt.toNat
      let h := (s.regs.mf 0).toNat
      let x : Int := coord s.cfg s.regs.curX
      let y : Int := coord s.cfg s.regs.curY
      let dx : Int := coord s.cfg s.regs.destxDiastp
      let dy : Int := coord s.cfg s.regs.destyAxstp
      ∃ t, exec (.ropblt sp o) s = .next t ∧
        Finished s t
          (visitAll (fun (q : Int × Int) u =>
              pixel (dx + q.1 * dirX c) (dy + q.2 * dirY c)
                (some (sourceAt u (x + q.1 * dirX c) (y + q.2 * dirY c)))
                (some (if o.pat8 then
                    tileAt u (coord s.cfg s.regs.curX2) (coord s.cfg s.regs.curY2)
                      (dx + q.1 * dirX c, dy + q.2 * dirY c)
                  else s.regs.frgdColor &&& pixelMask s.cfg.depth)) false u)
            (grid w h) (commandState c s)).vram
          (doneRegs s c) ∧
        sameOutside s t (rectPixels c dx dy w h)

/-- A command of a class the chip lacks stores CMD and drops the old operation; it draws nothing, writes no register
back and raises no status (R402, R121). -/
def Obligations.GatedCommands : Prop :=
  ∀ (s : State) (sp : Space) (o : CmdOpts), commandNow s sp →
    (s.cfg.cap.hasPolygon = false →
      exec (.polySolid sp o) s = .next (commandState (cmdWord 3 o) s) ∧
      exec (.polyPat sp o) s = .next (commandState (cmdWord 3 o) s)) ∧
    (s.cfg.cap.hasRopblt = false → exec (.ropblt sp o) s = .next (commandState (cmdWord 4 o) s)) ∧
    (s.cfg.cap.hasPolyline = false → exec (.polyline sp o) s = .next (commandState (cmdWord 5 o) s))

/-- What the spec gives no meaning to, as the model reads it (assumption log entries 14, 15 and 16), is refused by
name, and only that: drawing on a byte-doubling chip at 16 bpp, the packed 32 bpp sub-mode, and CPU pixels that
do not fit the bus unit (R27, R28, R29, R242, R404). Every other command of a class the chip has completes. A
stroke is refused in the first two cases, with its own draw bit, and in no other; a completed unit whose pixels
do not fit, because PIX_CNTL was changed after the start, is refused as its command would have been (R252,
R242). -/
def Obligations.RefusedCommands : Prop :=
  (∀ (s : State) (sp : Space) (c : Half), commandNow s sp → gate s.cfg.cap (cmdClass c) = true →
    let doubling : Prop := s.cfg.cap.byteDoubling = true ∧ pixelBytes s.cfg.depth = 2 ∧ cmdDraw c = true ∧
      cmdClass c ≠ 0 ∧ ¬ (cmdClass c = 2 ∧ cmdPcdata c = true ∧ cmdWrtdata c = false)
    let packed32 : Prop := s.cfg.cap.hasPacked32 = true ∧ cmdBus c = 3
    let noFit : Prop := takesCpu c = true ∧ cmdWrtdata c = true ∧ s.regs.mixSel ≠ 2 ∧
      (pixelBytes s.cfg.depth = 3 ∨ unitSize c < pixelBytes s.cfg.depth)
    (doubling → exec (cmdInstr sp c) s = .refused .byteDoubling16bpp) ∧
    (¬ doubling → packed32 → exec (cmdInstr sp c) s = .refused .packed32SubMode) ∧
    (¬ doubling → ¬ packed32 → noFit → exec (cmdInstr sp c) s = .refused .cpuPixelPacking) ∧
    (¬ doubling → ¬ packed32 → ¬ noFit → ∃ t, exec (cmdInstr sp c) s = .next t)) ∧
  (∀ (s : State) (sp : Space) (hi : Bool) (dir : BitVec 3) (draw : Bool) (len : BitVec 4),
    portOpen s sp .shortStroke hi → writesNow s → cmdClass s.regs.cmd = 0 →
    let doubling : Prop := s.cfg.cap.byteDoubling = true ∧ pixelBytes s.cfg.depth = 2 ∧ draw = true
    let packed32 : Prop := s.cfg.cap.hasPacked32 = true ∧ cmdBus s.regs.cmd = 3
    (doubling → exec (.ssv sp hi dir draw len) s = .refused .byteDoubling16bpp) ∧
    (¬ doubling → packed32 → exec (.ssv sp hi dir draw len) s = .refused .packed32SubMode) ∧
    (¬ doubling → ¬ packed32 → ∃ t, exec (.ssv sp hi dir draw len) s = .next t)) ∧
  (∀ (s : State) (lane : BitVec 2) (v : Word), named s .io (pixPortLo + lane.toNat) → writesNow s →
    s.eng.active = true → takesCpu s.eng.cmd = true → cmdWrtdata s.eng.cmd = true →
    s.eng.pixCount.toNat + 1 = unitSize s.regs.cmd → s.regs.mixSel ≠ 2 →
    (pixelBytes s.cfg.depth = 3 ∨ unitSize s.regs.cmd < pixelBytes s.cfg.depth) →
      exec (.outPixTrans lane .w8 v) s = .refused .cpuPixelPacking)

/-- Every step, of either agent or of the environment, keeps VRAM canonical and inside the installed memory. -/
def Obligations.MemoryKept : Prop :=
  ∀ s t : State, MemOk s → step s = .next t → MemOk t

/-- Every step keeps the FIFO within its capacity, not busy between steps, and its ring in form (R200, R194). -/
def Obligations.FifoKept : Prop :=
  ∀ s t : State, FifoOk s → step s = .next t → FifoOk t

/-- Every step keeps the position registers sign-extended 14-bit fields and the two unused status bits 0 (R32, R51). -/
def Obligations.RegistersKept : Prop :=
  ∀ s t : State, CoordsOk s → StatusOk s → step s = .next t → CoordsOk t ∧ StatusOk t

/-- Every step leaves an operation active only where the CPU is to feed or read it: every other command has run to
its end (R154). -/
def Obligations.EngineKept : Prop :=
  ∀ s t : State, EngineOk s → step s = .next t → EngineOk t

/-- No step changes the session (R65), no operation faults (R400), and a step faults only where the host program is
no record of a bus operation (assumption log entry 1). -/
def Obligations.ContextKept : Prop :=
  (∀ s t : State, step s = .next t → t.cfg = s.cfg) ∧
    (∀ (i : Instr) (s : State) (f : Fault), exec i s ≠ .fault f) ∧
    (∀ (s : State) (f : Fault), step s = .fault f →
      ∃ e, f = .malformedRecord e ∧ decode s.host.program = .error e)
end

