-- ==== Sys2Proof/Laws/Memory.lean ====
section
/-!
SUPPORT. The laws of VRAM: a byte written is read back, the others stay, the canonical form is kept, and a pixel
write changes only the bytes of its pixel.
-/
namespace Sys2Proof.Machine

theorem Memory.read_cons (k : Nat) (b : Byte) (rest : Memory) (a : Nat) :
    Memory.read ((k, b) :: rest) a = if k = a then b else Memory.read rest a := rfl

/-- An address below every listed one is not listed. -/
theorem Memory.read_of_lt (m : Memory) (a : Nat) (h : ∀ c ∈ m, a < c.1) : Memory.read m a = unwrittenByte := by
  induction m with
  | nil => rfl
  | cons c rest ih =>
    obtain ⟨k, b⟩ := c
    have hk : a < k := h (k, b) (by simp)
    rw [Memory.read_cons, if_neg (by omega), ih fun c hc => h c (by simp [hc])]

/-- The canonical form taken apart. -/
theorem Memory.wf_cons (k : Nat) (b : Byte) (rest : Memory) :
    Memory.wf ((k, b) :: rest) = true ↔
      b ≠ unwrittenByte ∧ (∀ c ∈ rest, k < c.1) ∧ Memory.wf rest = true := by
  simp [Memory.wf, List.all_eq_true, and_assoc]

/-- The addresses a write leaves listed. -/
theorem Memory.mem_write (m : Memory) (a : Nat) (v : Byte) (c : Host.Cell) (h : c ∈ Memory.write m a v) :
    c ∈ m ∨ c = (a, v) := by
  induction m with
  | nil =>
    simp only [Memory.write] at h
    split at h <;> simp_all
  | cons d rest ih =>
    obtain ⟨k, b⟩ := d
    simp only [Memory.write] at h
    split at h
    · split at h <;> simp_all
      tauto
    · split at h
      · split at h <;> simp_all
        tauto
      · rcases List.mem_cons.1 h with h | h
        · exact .inl (by simp [h])
        · rcases ih h with h | h <;> simp [h]

/-- A write keeps the canonical form. -/
theorem Memory.wf_write (m : Memory) (a : Nat) (v : Byte) (h : Memory.wf m = true) :
    Memory.wf (Memory.write m a v) = true := by
  induction m with
  | nil =>
    simp only [Memory.write]
    split
    · rfl
    · simp_all [Memory.wf]
  | cons d rest ih =>
    obtain ⟨k, b⟩ := d
    obtain ⟨hb, hk, hr⟩ := (Memory.wf_cons k b rest).1 h
    simp only [Memory.write]
    split
    · rename_i hak
      split
      · exact h
      · rename_i hv
        refine (Memory.wf_cons a v _).2 ⟨hv, fun c hc => ?_, h⟩
        rcases List.mem_cons.1 hc with rfl | hc
        · exact hak
        · exact Nat.lt_trans hak (hk c hc)
    · split
      · rename_i hak
        split
        · exact hr
        · rename_i hv
          exact (Memory.wf_cons a v rest).2 ⟨hv, fun c hc => hak ▸ hk c hc, hr⟩
      · rename_i h1 h2
        refine (Memory.wf_cons k b _).2 ⟨hb, fun c hc => ?_, ih hr⟩
        rcases Memory.mem_write rest a v c hc with hc | rfl
        · exact hk c hc
        · show k < a
          omega

/-- A write below a bound keeps every listed address below it. -/
theorem Memory.below_write (n : Nat) (m : Memory) (a : Nat) (v : Byte) (ha : a < n)
    (h : Memory.below n m = true) : Memory.below n (Memory.write m a v) = true := by
  simp only [Memory.below, List.all_eq_true, decide_eq_true_eq] at *
  intro c hc
  rcases Memory.mem_write m a v c hc with hc | rfl
  · exact h c hc
  · exact ha

/-- A byte written in a canonical memory reads back. -/
theorem Memory.read_write_same (m : Memory) (a : Nat) (v : Byte) (h : Memory.wf m = true) :
    Memory.read (Memory.write m a v) a = v := by
  induction m with
  | nil =>
    simp only [Memory.write]
    split
    · rename_i hv; rw [hv]; rfl
    · simp [Memory.read]
  | cons d rest ih =>
    obtain ⟨k, b⟩ := d
    obtain ⟨-, hk, hr⟩ := (Memory.wf_cons k b rest).1 h
    simp only [Memory.write]
    split
    · rename_i hak
      split
      · rename_i hv
        rw [hv]
        refine Memory.read_of_lt _ a fun c hc => ?_
        rcases List.mem_cons.1 hc with rfl | hc
        · exact hak
        · exact Nat.lt_trans hak (hk c hc)
      · simp [Memory.read]
    · split
      · rename_i hak
        split
        · rename_i hv
          rw [hv]
          exact Memory.read_of_lt _ a fun c hc => hak ▸ hk c hc
        · simp [Memory.read]
      · rename_i h1 h2
        rw [Memory.read_cons, if_neg (by omega)]
        exact ih hr

/-- A write leaves every other byte alone. -/
theorem Memory.read_write_other (m : Memory) (a x : Nat) (v : Byte) (hx : x ≠ a) :
    Memory.read (Memory.write m a v) x = Memory.read m x := by
  induction m with
  | nil =>
    simp only [Memory.write]
    split
    · rfl
    · simp [Memory.read, hx.symm]
  | cons d rest ih =>
    obtain ⟨k, b⟩ := d
    simp only [Memory.write]
    split
    · split
      · rfl
      · rw [Memory.read_cons, if_neg hx.symm]
    · split
      · rename_i hak
        split <;> simp [Memory.read, hak ▸ hx.symm, hx.symm]
      · simp only [Memory.read_cons, ih]

/-- A pixel write keeps the canonical form. -/
theorem wf_writePixelFrom (cfg : Config) (i : Nat) (v : Word) (n k : Nat) (m : Memory)
    (h : Memory.wf m = true) : Memory.wf (writePixelFrom cfg m i v k n) = true := by
  induction n generalizing k m with
  | zero => exact h
  | succ n ih => exact ih _ _ (Memory.wf_write _ _ _ h)

/-- A pixel write keeps the canonical form. -/
theorem wf_writePixel (cfg : Config) (m : Memory) (i : Nat) (v : Word) (h : Memory.wf m = true) :
    Memory.wf (writePixel cfg m i v) = true := wf_writePixelFrom cfg i v _ 0 m h

theorem byteAddr_lt (cfg : Config) (i k : Nat) : byteAddr cfg i k < 2 ^ cfg.vramBits :=
  Nat.mod_lt _ (Nat.two_pow_pos _)

/-- A pixel write stays inside VRAM. -/
theorem below_writePixelFrom (cfg : Config) (i : Nat) (v : Word) (n k : Nat) (m : Memory)
    (h : Memory.below (2 ^ cfg.vramBits) m = true) :
    Memory.below (2 ^ cfg.vramBits) (writePixelFrom cfg m i v k n) = true := by
  induction n generalizing k m with
  | zero => exact h
  | succ n ih => exact ih _ _ (Memory.below_write _ _ _ _ (byteAddr_lt cfg i k) h)

/-- A pixel write stays inside VRAM. -/
theorem below_writePixel (cfg : Config) (m : Memory) (i : Nat) (v : Word)
    (h : Memory.below (2 ^ cfg.vramBits) m = true) :
    Memory.below (2 ^ cfg.vramBits) (writePixel cfg m i v) = true := below_writePixelFrom cfg i v _ 0 m h

/-- A pixel write leaves every byte outside the pixel alone. -/
theorem read_writePixelFrom_other (cfg : Config) (i : Nat) (v : Word) (x n k : Nat) (m : Memory)
    (h : ∀ j, k ≤ j → j < k + n → x ≠ byteAddr cfg i j) :
    Memory.read (writePixelFrom cfg m i v k n) x = Memory.read m x := by
  induction n generalizing k m with
  | zero => rfl
  | succ n ih =>
    rw [writePixelFrom, ih _ _ fun j h1 h2 => h j (by omega) (by omega),
      Memory.read_write_other _ _ _ _ (h k (by omega) (by omega))]

/-- A pixel write leaves every byte outside the pixel alone. -/
theorem read_writePixel_other (cfg : Config) (m : Memory) (i : Nat) (v : Word) (x : Nat)
    (h : ∀ j, j < pixelBytes cfg.depth → x ≠ byteAddr cfg i j) :
    Memory.read (writePixel cfg m i v) x = Memory.read m x :=
  read_writePixelFrom_other cfg i v x _ 0 m fun j _ h2 => h j (by omega)

end Sys2Proof.Machine
end

