-- ==== Sys2Proof/Laws/State.lean ====
section
/-!
SUPPORT. One lemma per field per named update of State, true by unfolding, so that no proof unfolds a record
update; the same for the fields an entry of the multifunction file leaves alone.
-/
namespace Sys2Proof.Machine

@[simp] theorem raiseIrq_cfg (b : Nat) (s : State) : (raiseIrq b s).cfg = s.cfg := rfl
@[simp] theorem raiseIrq_inputs (b : Nat) (s : State) : (raiseIrq b s).inputs = s.inputs := rfl
@[simp] theorem raiseIrq_regs (b : Nat) (s : State) :
    (raiseIrq b s).regs = { s.regs with subsysStat := s.regs.subsysStat ||| (1#4 <<< b) } := rfl
@[simp] theorem raiseIrq_eng (b : Nat) (s : State) : (raiseIrq b s).eng = s.eng := rfl
@[simp] theorem raiseIrq_fifo (b : Nat) (s : State) : (raiseIrq b s).fifo = s.fifo := rfl
@[simp] theorem raiseIrq_vram (b : Nat) (s : State) : (raiseIrq b s).vram = s.vram := rfl
@[simp] theorem raiseIrq_host (b : Nat) (s : State) : (raiseIrq b s).host = s.host := rfl
@[simp] theorem raiseIrq_draws (b : Nat) (s : State) : (raiseIrq b s).draws = s.draws := rfl

@[simp] theorem mapRegs_cfg (f : Regs → Regs) (s : State) : (mapRegs f s).cfg = s.cfg := rfl
@[simp] theorem mapRegs_inputs (f : Regs → Regs) (s : State) : (mapRegs f s).inputs = s.inputs := rfl
@[simp] theorem mapRegs_regs (f : Regs → Regs) (s : State) : (mapRegs f s).regs = f s.regs := rfl
@[simp] theorem mapRegs_eng (f : Regs → Regs) (s : State) : (mapRegs f s).eng = s.eng := rfl
@[simp] theorem mapRegs_fifo (f : Regs → Regs) (s : State) : (mapRegs f s).fifo = s.fifo := rfl
@[simp] theorem mapRegs_vram (f : Regs → Regs) (s : State) : (mapRegs f s).vram = s.vram := rfl
@[simp] theorem mapRegs_host (f : Regs → Regs) (s : State) : (mapRegs f s).host = s.host := rfl
@[simp] theorem mapRegs_draws (f : Regs → Regs) (s : State) : (mapRegs f s).draws = s.draws := rfl

@[simp] theorem withProgram_cfg (bs : List Byte) (s : State) : (withProgram bs s).cfg = s.cfg := rfl
@[simp] theorem withProgram_inputs (bs : List Byte) (s : State) : (withProgram bs s).inputs = s.inputs := rfl
@[simp] theorem withProgram_regs (bs : List Byte) (s : State) : (withProgram bs s).regs = s.regs := rfl
@[simp] theorem withProgram_eng (bs : List Byte) (s : State) : (withProgram bs s).eng = s.eng := rfl
@[simp] theorem withProgram_fifo (bs : List Byte) (s : State) : (withProgram bs s).fifo = s.fifo := rfl
@[simp] theorem withProgram_vram (bs : List Byte) (s : State) : (withProgram bs s).vram = s.vram := rfl
@[simp] theorem withProgram_host (bs : List Byte) (s : State) :
    (withProgram bs s).host = { s.host with program := bs } := rfl
@[simp] theorem withProgram_draws (bs : List Byte) (s : State) : (withProgram bs s).draws = s.draws := rfl

@[simp] theorem withSched_cfg (ts : List Turn) (s : State) : (withSched ts s).cfg = s.cfg := rfl
@[simp] theorem withSched_inputs (ts : List Turn) (s : State) : (withSched ts s).inputs = s.inputs := rfl
@[simp] theorem withSched_regs (ts : List Turn) (s : State) : (withSched ts s).regs = s.regs := rfl
@[simp] theorem withSched_eng (ts : List Turn) (s : State) : (withSched ts s).eng = s.eng := rfl
@[simp] theorem withSched_fifo (ts : List Turn) (s : State) : (withSched ts s).fifo = s.fifo := rfl
@[simp] theorem withSched_vram (ts : List Turn) (s : State) : (withSched ts s).vram = s.vram := rfl
@[simp] theorem withSched_host (ts : List Turn) (s : State) :
    (withSched ts s).host = { s.host with sched := ts } := rfl
@[simp] theorem withSched_draws (ts : List Turn) (s : State) : (withSched ts s).draws = s.draws := rfl

@[simp] theorem withPending_cfg (ps : List Part) (s : State) : (withPending ps s).cfg = s.cfg := rfl
@[simp] theorem withPending_inputs (ps : List Part) (s : State) : (withPending ps s).inputs = s.inputs := rfl
@[simp] theorem withPending_regs (ps : List Part) (s : State) : (withPending ps s).regs = s.regs := rfl
@[simp] theorem withPending_eng (ps : List Part) (s : State) : (withPending ps s).eng = s.eng := rfl
@[simp] theorem withPending_fifo (ps : List Part) (s : State) : (withPending ps s).fifo = s.fifo := rfl
@[simp] theorem withPending_vram (ps : List Part) (s : State) : (withPending ps s).vram = s.vram := rfl
@[simp] theorem withPending_host (ps : List Part) (s : State) :
    (withPending ps s).host = { s.host with pending := ps } := rfl
@[simp] theorem withPending_draws (ps : List Part) (s : State) : (withPending ps s).draws = s.draws := rfl

@[simp] theorem holdPart_cfg (p : Part) (s : State) : (holdPart p s).cfg = s.cfg := rfl
@[simp] theorem holdPart_inputs (p : Part) (s : State) : (holdPart p s).inputs = s.inputs := rfl
@[simp] theorem holdPart_regs (p : Part) (s : State) : (holdPart p s).regs = s.regs := rfl
@[simp] theorem holdPart_eng (p : Part) (s : State) : (holdPart p s).eng = s.eng := rfl
@[simp] theorem holdPart_fifo (p : Part) (s : State) : (holdPart p s).fifo = s.fifo := rfl
@[simp] theorem holdPart_vram (p : Part) (s : State) : (holdPart p s).vram = s.vram := rfl
@[simp] theorem holdPart_host (p : Part) (s : State) :
    (holdPart p s).host = { s.host with pending := p :: s.host.pending } := rfl
@[simp] theorem holdPart_draws (p : Part) (s : State) : (holdPart p s).draws = s.draws := rfl

@[simp] theorem returnRead_cfg (w : Width) (v : Word) (s : State) : (returnRead w v s).cfg = s.cfg := rfl
@[simp] theorem returnRead_inputs (w : Width) (v : Word) (s : State) : (returnRead w v s).inputs = s.inputs := rfl
@[simp] theorem returnRead_regs (w : Width) (v : Word) (s : State) : (returnRead w v s).regs = s.regs := rfl
@[simp] theorem returnRead_eng (w : Width) (v : Word) (s : State) : (returnRead w v s).eng = s.eng := rfl
@[simp] theorem returnRead_fifo (w : Width) (v : Word) (s : State) : (returnRead w v s).fifo = s.fifo := rfl
@[simp] theorem returnRead_vram (w : Width) (v : Word) (s : State) : (returnRead w v s).vram = s.vram := rfl
@[simp] theorem returnRead_host (w : Width) (v : Word) (s : State) :
    (returnRead w v s).host = { s.host with history := .readReturned w v :: s.host.history } := rfl
@[simp] theorem returnRead_draws (w : Width) (v : Word) (s : State) : (returnRead w v s).draws = s.draws := rfl

@[simp] theorem pushParts_cfg (ps : List Part) (s : State) : (pushParts ps s).cfg = s.cfg := rfl
@[simp] theorem pushParts_inputs (ps : List Part) (s : State) : (pushParts ps s).inputs = s.inputs := rfl
@[simp] theorem pushParts_regs (ps : List Part) (s : State) : (pushParts ps s).regs = s.regs := rfl
@[simp] theorem pushParts_eng (ps : List Part) (s : State) : (pushParts ps s).eng = s.eng := rfl
@[simp] theorem pushParts_fifo (ps : List Part) (s : State) : (pushParts ps s).fifo = s.fifo := rfl
@[simp] theorem pushParts_vram (ps : List Part) (s : State) : (pushParts ps s).vram = s.vram := rfl
@[simp] theorem pushParts_host (ps : List Part) (s : State) :
    (pushParts ps s).host = { s.host with pending := ps ++ s.host.pending } := rfl
@[simp] theorem pushParts_draws (ps : List Part) (s : State) : (pushParts ps s).draws = s.draws := rfl

@[simp] theorem pushEntry_cfg (e : FifoEntry) (s : State) : (pushEntry e s).cfg = s.cfg := rfl
@[simp] theorem pushEntry_inputs (e : FifoEntry) (s : State) : (pushEntry e s).inputs = s.inputs := rfl
@[simp] theorem pushEntry_regs (e : FifoEntry) (s : State) : (pushEntry e s).regs = s.regs := rfl
@[simp] theorem pushEntry_eng (e : FifoEntry) (s : State) : (pushEntry e s).eng = s.eng := rfl
@[simp] theorem pushEntry_fifo (e : FifoEntry) (s : State) : (pushEntry e s).fifo = s.fifo.push e := rfl
@[simp] theorem pushEntry_vram (e : FifoEntry) (s : State) : (pushEntry e s).vram = s.vram := rfl
@[simp] theorem pushEntry_host (e : FifoEntry) (s : State) : (pushEntry e s).host = s.host := rfl
@[simp] theorem pushEntry_draws (e : FifoEntry) (s : State) : (pushEntry e s).draws = s.draws := rfl

@[simp] theorem popEntry_cfg (s : State) : (popEntry s).cfg = s.cfg := rfl
@[simp] theorem popEntry_inputs (s : State) : (popEntry s).inputs = s.inputs := rfl
@[simp] theorem popEntry_regs (s : State) : (popEntry s).regs = s.regs := rfl
@[simp] theorem popEntry_eng (s : State) : (popEntry s).eng = s.eng := rfl
@[simp] theorem popEntry_fifo (s : State) :
    (popEntry s).fifo = { s.fifo with readIdx := s.fifo.readIdx + 1, busy := true } := rfl
@[simp] theorem popEntry_vram (s : State) : (popEntry s).vram = s.vram := rfl
@[simp] theorem popEntry_host (s : State) : (popEntry s).host = s.host := rfl
@[simp] theorem popEntry_draws (s : State) : (popEntry s).draws = s.draws := rfl

@[simp] theorem latchCmd_cfg (s : State) : (latchCmd s).cfg = s.cfg := rfl
@[simp] theorem latchCmd_inputs (s : State) : (latchCmd s).inputs = s.inputs := rfl
@[simp] theorem latchCmd_regs (s : State) : (latchCmd s).regs = s.regs := rfl
@[simp] theorem latchCmd_eng (s : State) :
    (latchCmd s).eng = { s.eng with cpuBits := [], cpuPix := [], cmd := s.regs.cmd, cls := cmdClass s.regs.cmd, active := false } := rfl
@[simp] theorem latchCmd_fifo (s : State) : (latchCmd s).fifo = s.fifo := rfl
@[simp] theorem latchCmd_vram (s : State) : (latchCmd s).vram = s.vram := rfl
@[simp] theorem latchCmd_host (s : State) : (latchCmd s).host = s.host := rfl
@[simp] theorem latchCmd_draws (s : State) : (latchCmd s).draws = s.draws := rfl

@[simp] theorem activate_cfg (s : State) : (activate s).cfg = s.cfg := rfl
@[simp] theorem activate_inputs (s : State) : (activate s).inputs = s.inputs := rfl
@[simp] theorem activate_regs (s : State) : (activate s).regs = s.regs := rfl
@[simp] theorem activate_eng (s : State) : (activate s).eng = { s.eng with active := true } := rfl
@[simp] theorem activate_fifo (s : State) : (activate s).fifo = s.fifo := rfl
@[simp] theorem activate_vram (s : State) : (activate s).vram = s.vram := rfl
@[simp] theorem activate_host (s : State) : (activate s).host = s.host := rfl
@[simp] theorem activate_draws (s : State) : (activate s).draws = s.draws := rfl

@[simp] theorem opDone_cfg (s : State) : (opDone s).cfg = s.cfg := rfl
@[simp] theorem opDone_inputs (s : State) : (opDone s).inputs = s.inputs := rfl
@[simp] theorem opDone_regs (s : State) :
    (opDone s).regs = { s.regs with subsysStat := s.regs.subsysStat ||| (1#4 <<< geDone) } := rfl
@[simp] theorem opDone_eng (s : State) : (opDone s).eng = { s.eng with active := false } := rfl
@[simp] theorem opDone_fifo (s : State) : (opDone s).fifo = s.fifo := rfl
@[simp] theorem opDone_vram (s : State) : (opDone s).vram = s.vram := rfl
@[simp] theorem opDone_host (s : State) : (opDone s).host = s.host := rfl
@[simp] theorem opDone_draws (s : State) : (opDone s).draws = s.draws := rfl

@[simp] theorem setPixCount_cfg (n : Nat) (s : State) : (setPixCount n s).cfg = s.cfg := rfl
@[simp] theorem setPixCount_inputs (n : Nat) (s : State) : (setPixCount n s).inputs = s.inputs := rfl
@[simp] theorem setPixCount_regs (n : Nat) (s : State) : (setPixCount n s).regs = s.regs := rfl
@[simp] theorem setPixCount_eng (n : Nat) (s : State) :
    (setPixCount n s).eng = { s.eng with pixCount := BitVec.ofNat 2 n } := rfl
@[simp] theorem setPixCount_fifo (n : Nat) (s : State) : (setPixCount n s).fifo = s.fifo := rfl
@[simp] theorem setPixCount_vram (n : Nat) (s : State) : (setPixCount n s).vram = s.vram := rfl
@[simp] theorem setPixCount_host (n : Nat) (s : State) : (setPixCount n s).host = s.host := rfl
@[simp] theorem setPixCount_draws (n : Nat) (s : State) : (setPixCount n s).draws = s.draws := rfl

@[simp] theorem stageByte_cfg (b : Byte) (s : State) : (stageByte b s).cfg = s.cfg := rfl
@[simp] theorem stageByte_inputs (b : Byte) (s : State) : (stageByte b s).inputs = s.inputs := rfl
@[simp] theorem stageByte_eng (b : Byte) (s : State) : (stageByte b s).eng = s.eng := rfl
@[simp] theorem stageByte_fifo (b : Byte) (s : State) : (stageByte b s).fifo = s.fifo := rfl
@[simp] theorem stageByte_vram (b : Byte) (s : State) : (stageByte b s).vram = s.vram := rfl
@[simp] theorem stageByte_host (b : Byte) (s : State) : (stageByte b s).host = s.host := rfl
@[simp] theorem stageByte_draws (b : Byte) (s : State) : (stageByte b s).draws = s.draws := rfl

@[simp] theorem writeAdvfunc_cfg (part : RegPart) (v : Word) (s : State) :
    (writeAdvfunc part v s).cfg = s.cfg := rfl
@[simp] theorem writeAdvfunc_inputs (part : RegPart) (v : Word) (s : State) :
    (writeAdvfunc part v s).inputs = s.inputs := rfl
@[simp] theorem writeAdvfunc_regs (part : RegPart) (v : Word) (s : State) :
    (writeAdvfunc part v s).regs = { s.regs with advfunc := writeHalf part v s.regs.advfunc } := rfl
@[simp] theorem writeAdvfunc_eng (part : RegPart) (v : Word) (s : State) :
    (writeAdvfunc part v s).eng = s.eng := rfl
@[simp] theorem writeAdvfunc_fifo (part : RegPart) (v : Word) (s : State) :
    (writeAdvfunc part v s).fifo = s.fifo := rfl
@[simp] theorem writeAdvfunc_vram (part : RegPart) (v : Word) (s : State) :
    (writeAdvfunc part v s).vram = s.vram := rfl
@[simp] theorem writeAdvfunc_host (part : RegPart) (v : Word) (s : State) :
    (writeAdvfunc part v s).host = { s.host with history := .recalc :: s.host.history } := rfl
@[simp] theorem writeAdvfunc_draws (part : RegPart) (v : Word) (s : State) :
    (writeAdvfunc part v s).draws = s.draws := rfl

@[simp] theorem writeCmdLow_cfg (v : Word) (s : State) : (writeCmdLow v s).cfg = s.cfg := rfl
@[simp] theorem writeCmdLow_inputs (v : Word) (s : State) : (writeCmdLow v s).inputs = s.inputs := rfl
@[simp] theorem writeCmdLow_regs (v : Word) (s : State) :
    (writeCmdLow v s).regs = { s.regs with cmd := writeHalf .lo v s.regs.cmd } := rfl
@[simp] theorem writeCmdLow_eng (v : Word) (s : State) :
    (writeCmdLow v s).eng = { s.eng with pixCount := 0, dataAvailable := false } := rfl
@[simp] theorem writeCmdLow_fifo (v : Word) (s : State) : (writeCmdLow v s).fifo = s.fifo := rfl
@[simp] theorem writeCmdLow_vram (v : Word) (s : State) : (writeCmdLow v s).vram = s.vram := rfl
@[simp] theorem writeCmdLow_host (v : Word) (s : State) : (writeCmdLow v s).host = s.host := rfl
@[simp] theorem writeCmdLow_draws (v : Word) (s : State) : (writeCmdLow v s).draws = s.draws := rfl

@[simp] theorem writeCmdHigh_cfg (v : Word) (s : State) : (writeCmdHigh v s).cfg = s.cfg := rfl
@[simp] theorem writeCmdHigh_inputs (v : Word) (s : State) : (writeCmdHigh v s).inputs = s.inputs := rfl
@[simp] theorem writeCmdHigh_regs (v : Word) (s : State) :
    (writeCmdHigh v s).regs = { s.regs with cmd := writeHalf .hi v s.regs.cmd } := rfl
@[simp] theorem writeCmdHigh_eng (v : Word) (s : State) :
    (writeCmdHigh v s).eng = { s.eng with phase16 := if byteDoubled s.cfg then false else s.eng.phase16 } := rfl
@[simp] theorem writeCmdHigh_fifo (v : Word) (s : State) : (writeCmdHigh v s).fifo = s.fifo := rfl
@[simp] theorem writeCmdHigh_vram (v : Word) (s : State) : (writeCmdHigh v s).vram = s.vram := rfl
@[simp] theorem writeCmdHigh_host (v : Word) (s : State) : (writeCmdHigh v s).host = s.host := rfl
@[simp] theorem writeCmdHigh_draws (v : Word) (s : State) : (writeCmdHigh v s).draws = s.draws := rfl

@[simp] theorem pixel_cfg (x y : Int) (v p : Option Word) (sup : Bool) (s : State) :
    (pixel x y v p sup s).cfg = s.cfg := rfl
@[simp] theorem pixel_inputs (x y : Int) (v p : Option Word) (sup : Bool) (s : State) :
    (pixel x y v p sup s).inputs = s.inputs := rfl
@[simp] theorem pixel_regs (x y : Int) (v p : Option Word) (sup : Bool) (s : State) :
    (pixel x y v p sup s).regs = s.regs := rfl
@[simp] theorem pixel_eng (x y : Int) (v p : Option Word) (sup : Bool) (s : State) :
    (pixel x y v p sup s).eng = s.pixelEng := rfl
@[simp] theorem pixel_fifo (x y : Int) (v p : Option Word) (sup : Bool) (s : State) :
    (pixel x y v p sup s).fifo = s.fifo := rfl
@[simp] theorem pixel_vram (x y : Int) (v p : Option Word) (sup : Bool) (s : State) :
    (pixel x y v p sup s).vram = s.pixelVram x y v p sup := rfl
@[simp] theorem pixel_host (x y : Int) (v p : Option Word) (sup : Bool) (s : State) :
    (pixel x y v p sup s).host = s.host := rfl
@[simp] theorem pixel_draws (x y : Int) (v p : Option Word) (sup : Bool) (s : State) :
    (pixel x y v p sup s).draws = s.draws + 3 := rfl

@[simp] theorem lineInit_cfg (s : State) : (lineInit s).cfg = s.cfg := rfl
@[simp] theorem lineInit_inputs (s : State) : (lineInit s).inputs = s.inputs := rfl
@[simp] theorem lineInit_regs (s : State) : (lineInit s).regs = s.regs := rfl
@[simp] theorem lineInit_fifo (s : State) : (lineInit s).fifo = s.fifo := rfl
@[simp] theorem lineInit_vram (s : State) : (lineInit s).vram = s.vram := rfl
@[simp] theorem lineInit_host (s : State) : (lineInit s).host = s.host := rfl
@[simp] theorem lineInit_draws (s : State) : (lineInit s).draws = s.draws := rfl

@[simp] theorem radialInit_cfg (s : State) : (radialInit s).cfg = s.cfg := rfl
@[simp] theorem radialInit_inputs (s : State) : (radialInit s).inputs = s.inputs := rfl
@[simp] theorem radialInit_regs (s : State) : (radialInit s).regs = s.regs := rfl
@[simp] theorem radialInit_fifo (s : State) : (radialInit s).fifo = s.fifo := rfl
@[simp] theorem radialInit_vram (s : State) : (radialInit s).vram = s.vram := rfl
@[simp] theorem radialInit_host (s : State) : (radialInit s).host = s.host := rfl
@[simp] theorem radialInit_draws (s : State) : (radialInit s).draws = s.draws := rfl

@[simp] theorem polylineInit_cfg (s : State) : (polylineInit s).cfg = s.cfg := rfl
@[simp] theorem polylineInit_inputs (s : State) : (polylineInit s).inputs = s.inputs := rfl
@[simp] theorem polylineInit_regs (s : State) : (polylineInit s).regs = s.regs := rfl
@[simp] theorem polylineInit_fifo (s : State) : (polylineInit s).fifo = s.fifo := rfl
@[simp] theorem polylineInit_vram (s : State) : (polylineInit s).vram = s.vram := rfl
@[simp] theorem polylineInit_host (s : State) : (polylineInit s).host = s.host := rfl
@[simp] theorem polylineInit_draws (s : State) : (polylineInit s).draws = s.draws := rfl

@[simp] theorem rectInit_cfg (s : State) : (rectInit s).cfg = s.cfg := rfl
@[simp] theorem rectInit_inputs (s : State) : (rectInit s).inputs = s.inputs := rfl
@[simp] theorem rectInit_regs (s : State) : (rectInit s).regs = s.regs := rfl
@[simp] theorem rectInit_fifo (s : State) : (rectInit s).fifo = s.fifo := rfl
@[simp] theorem rectInit_vram (s : State) : (rectInit s).vram = s.vram := rfl
@[simp] theorem rectInit_host (s : State) : (rectInit s).host = s.host := rfl
@[simp] theorem rectInit_draws (s : State) : (rectInit s).draws = s.draws := rfl

@[simp] theorem readBackInit_cfg (s : State) : (readBackInit s).cfg = s.cfg := rfl
@[simp] theorem readBackInit_inputs (s : State) : (readBackInit s).inputs = s.inputs := rfl
@[simp] theorem readBackInit_regs (s : State) : (readBackInit s).regs = s.regs := rfl
@[simp] theorem readBackInit_fifo (s : State) : (readBackInit s).fifo = s.fifo := rfl
@[simp] theorem readBackInit_vram (s : State) : (readBackInit s).vram = s.vram := rfl
@[simp] theorem readBackInit_host (s : State) : (readBackInit s).host = s.host := rfl
@[simp] theorem readBackInit_draws (s : State) : (readBackInit s).draws = s.draws := rfl

@[simp] theorem polyInit_cfg (s : State) : (polyInit s).cfg = s.cfg := rfl
@[simp] theorem polyInit_inputs (s : State) : (polyInit s).inputs = s.inputs := rfl
@[simp] theorem polyInit_regs (s : State) : (polyInit s).regs = s.regs := rfl
@[simp] theorem polyInit_fifo (s : State) : (polyInit s).fifo = s.fifo := rfl
@[simp] theorem polyInit_vram (s : State) : (polyInit s).vram = s.vram := rfl
@[simp] theorem polyInit_host (s : State) : (polyInit s).host = s.host := rfl
@[simp] theorem polyInit_draws (s : State) : (polyInit s).draws = s.draws := rfl

@[simp] theorem blitInit_cfg (s : State) : (blitInit s).cfg = s.cfg := rfl
@[simp] theorem blitInit_inputs (s : State) : (blitInit s).inputs = s.inputs := rfl
@[simp] theorem blitInit_regs (s : State) : (blitInit s).regs = s.regs := rfl
@[simp] theorem blitInit_fifo (s : State) : (blitInit s).fifo = s.fifo := rfl
@[simp] theorem blitInit_vram (s : State) : (blitInit s).vram = s.vram := rfl
@[simp] theorem blitInit_host (s : State) : (blitInit s).host = s.host := rfl
@[simp] theorem blitInit_draws (s : State) : (blitInit s).draws = s.draws := rfl

@[simp] theorem patInit_cfg (s : State) : (patInit s).cfg = s.cfg := rfl
@[simp] theorem patInit_inputs (s : State) : (patInit s).inputs = s.inputs := rfl
@[simp] theorem patInit_regs (s : State) : (patInit s).regs = s.regs := rfl
@[simp] theorem patInit_fifo (s : State) : (patInit s).fifo = s.fifo := rfl
@[simp] theorem patInit_vram (s : State) : (patInit s).vram = s.vram := rfl
@[simp] theorem patInit_host (s : State) : (patInit s).host = s.host := rfl
@[simp] theorem patInit_draws (s : State) : (patInit s).draws = s.draws := rfl

@[simp] theorem ropInit_cfg (s : State) : (ropInit s).cfg = s.cfg := rfl
@[simp] theorem ropInit_inputs (s : State) : (ropInit s).inputs = s.inputs := rfl
@[simp] theorem ropInit_regs (s : State) : (ropInit s).regs = s.regs := rfl
@[simp] theorem ropInit_fifo (s : State) : (ropInit s).fifo = s.fifo := rfl
@[simp] theorem ropInit_vram (s : State) : (ropInit s).vram = s.vram := rfl
@[simp] theorem ropInit_host (s : State) : (ropInit s).host = s.host := rfl
@[simp] theorem ropInit_draws (s : State) : (ropInit s).draws = s.draws := rfl

@[simp] theorem strokeInit_cfg (b : Byte) (s : State) : (strokeInit b s).cfg = s.cfg := rfl
@[simp] theorem strokeInit_inputs (b : Byte) (s : State) : (strokeInit b s).inputs = s.inputs := rfl
@[simp] theorem strokeInit_regs (b : Byte) (s : State) : (strokeInit b s).regs = s.regs := rfl
@[simp] theorem strokeInit_eng (b : Byte) (s : State) :
    (strokeInit b s).eng = { s.eng with cls := 0, cmd := strokeCmd s.regs.cmd b } := rfl
@[simp] theorem strokeInit_fifo (b : Byte) (s : State) : (strokeInit b s).fifo = s.fifo := rfl
@[simp] theorem strokeInit_vram (b : Byte) (s : State) : (strokeInit b s).vram = s.vram := rfl
@[simp] theorem strokeInit_host (b : Byte) (s : State) : (strokeInit b s).host = s.host := rfl
@[simp] theorem strokeInit_draws (b : Byte) (s : State) : (strokeInit b s).draws = s.draws := rfl

@[simp] theorem lineAdvance_cfg (s : State) : (lineAdvance s).cfg = s.cfg := rfl
@[simp] theorem lineAdvance_inputs (s : State) : (lineAdvance s).inputs = s.inputs := rfl
@[simp] theorem lineAdvance_regs (s : State) : (lineAdvance s).regs = s.regs := rfl
@[simp] theorem lineAdvance_eng (s : State) : (lineAdvance s).eng = s.eng.lineStep := rfl
@[simp] theorem lineAdvance_fifo (s : State) : (lineAdvance s).fifo = s.fifo := rfl
@[simp] theorem lineAdvance_vram (s : State) : (lineAdvance s).vram = s.vram := rfl
@[simp] theorem lineAdvance_host (s : State) : (lineAdvance s).host = s.host := rfl
@[simp] theorem lineAdvance_draws (s : State) : (lineAdvance s).draws = s.draws := rfl

@[simp] theorem radialAdvance_cfg (s : State) : (radialAdvance s).cfg = s.cfg := rfl
@[simp] theorem radialAdvance_inputs (s : State) : (radialAdvance s).inputs = s.inputs := rfl
@[simp] theorem radialAdvance_regs (s : State) : (radialAdvance s).regs = s.regs := rfl
@[simp] theorem radialAdvance_fifo (s : State) : (radialAdvance s).fifo = s.fifo := rfl
@[simp] theorem radialAdvance_vram (s : State) : (radialAdvance s).vram = s.vram := rfl
@[simp] theorem radialAdvance_host (s : State) : (radialAdvance s).host = s.host := rfl
@[simp] theorem radialAdvance_draws (s : State) : (radialAdvance s).draws = s.draws := rfl

@[simp] theorem polylineAdvance_cfg (s : State) : (polylineAdvance s).cfg = s.cfg := rfl
@[simp] theorem polylineAdvance_inputs (s : State) : (polylineAdvance s).inputs = s.inputs := rfl
@[simp] theorem polylineAdvance_regs (s : State) : (polylineAdvance s).regs = s.regs := rfl
@[simp] theorem polylineAdvance_eng (s : State) : (polylineAdvance s).eng = s.eng.polylineStep := rfl
@[simp] theorem polylineAdvance_fifo (s : State) : (polylineAdvance s).fifo = s.fifo := rfl
@[simp] theorem polylineAdvance_vram (s : State) : (polylineAdvance s).vram = s.vram := rfl
@[simp] theorem polylineAdvance_host (s : State) : (polylineAdvance s).host = s.host := rfl
@[simp] theorem polylineAdvance_draws (s : State) : (polylineAdvance s).draws = s.draws := rfl

@[simp] theorem rectAdvance_cfg (s : State) : (rectAdvance s).cfg = s.cfg := rfl
@[simp] theorem rectAdvance_inputs (s : State) : (rectAdvance s).inputs = s.inputs := rfl
@[simp] theorem rectAdvance_regs (s : State) : (rectAdvance s).regs = s.regs := rfl
@[simp] theorem rectAdvance_eng (s : State) : (rectAdvance s).eng = s.eng.rectStep := rfl
@[simp] theorem rectAdvance_fifo (s : State) : (rectAdvance s).fifo = s.fifo := rfl
@[simp] theorem rectAdvance_vram (s : State) : (rectAdvance s).vram = s.vram := rfl
@[simp] theorem rectAdvance_host (s : State) : (rectAdvance s).host = s.host := rfl
@[simp] theorem rectAdvance_draws (s : State) : (rectAdvance s).draws = s.draws := rfl

@[simp] theorem blitAdvance_cfg (s : State) : (blitAdvance s).cfg = s.cfg := rfl
@[simp] theorem blitAdvance_inputs (s : State) : (blitAdvance s).inputs = s.inputs := rfl
@[simp] theorem blitAdvance_regs (s : State) : (blitAdvance s).regs = s.regs := rfl
@[simp] theorem blitAdvance_eng (s : State) : (blitAdvance s).eng = s.eng.blitStep := rfl
@[simp] theorem blitAdvance_fifo (s : State) : (blitAdvance s).fifo = s.fifo := rfl
@[simp] theorem blitAdvance_vram (s : State) : (blitAdvance s).vram = s.vram := rfl
@[simp] theorem blitAdvance_host (s : State) : (blitAdvance s).host = s.host := rfl
@[simp] theorem blitAdvance_draws (s : State) : (blitAdvance s).draws = s.draws := rfl

@[simp] theorem deviceReset_cfg (held : Bool) (s : State) : (deviceReset held s).cfg = s.cfg := rfl
@[simp] theorem deviceReset_inputs (held : Bool) (s : State) : (deviceReset held s).inputs = s.inputs := rfl
@[simp] theorem deviceReset_regs (held : Bool) (s : State) : (deviceReset held s).regs = Regs.reset := rfl
@[simp] theorem deviceReset_eng (held : Bool) (s : State) : (deviceReset held s).eng = Eng.reset := rfl
@[simp] theorem deviceReset_fifo (held : Bool) (s : State) : (deviceReset held s).fifo = Fifo.reset := rfl
@[simp] theorem deviceReset_vram (held : Bool) (s : State) : (deviceReset held s).vram = s.vram := rfl
@[simp] theorem deviceReset_host (held : Bool) (s : State) : (deviceReset held s).host = dropHeld held s.host := rfl
@[simp] theorem deviceReset_draws (held : Bool) (s : State) : (deviceReset held s).draws = s.draws := rfl

@[simp] theorem setMf_curX (r : Regs) (i : BitVec 4) (v : BitVec 12) : (r.setMf i v).curX = r.curX := rfl
@[simp] theorem setMf_curY (r : Regs) (i : BitVec 4) (v : BitVec 12) : (r.setMf i v).curY = r.curY := rfl
@[simp] theorem setMf_curX2 (r : Regs) (i : BitVec 4) (v : BitVec 12) : (r.setMf i v).curX2 = r.curX2 := rfl
@[simp] theorem setMf_curY2 (r : Regs) (i : BitVec 4) (v : BitVec 12) : (r.setMf i v).curY2 = r.curY2 := rfl
@[simp] theorem setMf_destxDiastp (r : Regs) (i : BitVec 4) (v : BitVec 12) : (r.setMf i v).destxDiastp = r.destxDiastp := rfl
@[simp] theorem setMf_destyAxstp (r : Regs) (i : BitVec 4) (v : BitVec 12) : (r.setMf i v).destyAxstp = r.destyAxstp := rfl
@[simp] theorem setMf_destx2 (r : Regs) (i : BitVec 4) (v : BitVec 12) : (r.setMf i v).destx2 = r.destx2 := rfl
@[simp] theorem setMf_desty2 (r : Regs) (i : BitVec 4) (v : BitVec 12) : (r.setMf i v).desty2 = r.desty2 := rfl
@[simp] theorem setMf_errTerm (r : Regs) (i : BitVec 4) (v : BitVec 12) : (r.setMf i v).errTerm = r.errTerm := rfl
@[simp] theorem setMf_majAxisPcnt (r : Regs) (i : BitVec 4) (v : BitVec 12) : (r.setMf i v).majAxisPcnt = r.majAxisPcnt := rfl
@[simp] theorem setMf_bkgdColor (r : Regs) (i : BitVec 4) (v : BitVec 12) : (r.setMf i v).bkgdColor = r.bkgdColor := rfl
@[simp] theorem setMf_frgdColor (r : Regs) (i : BitVec 4) (v : BitVec 12) : (r.setMf i v).frgdColor = r.frgdColor := rfl
@[simp] theorem setMf_wrtMask (r : Regs) (i : BitVec 4) (v : BitVec 12) : (r.setMf i v).wrtMask = r.wrtMask := rfl
@[simp] theorem setMf_rdMask (r : Regs) (i : BitVec 4) (v : BitVec 12) : (r.setMf i v).rdMask = r.rdMask := rfl
@[simp] theorem setMf_colorCmp (r : Regs) (i : BitVec 4) (v : BitVec 12) : (r.setMf i v).colorCmp = r.colorCmp := rfl
@[simp] theorem setMf_bkgdLanes (r : Regs) (i : BitVec 4) (v : BitVec 12) : (r.setMf i v).bkgdLanes = r.bkgdLanes := rfl
@[simp] theorem setMf_frgdLanes (r : Regs) (i : BitVec 4) (v : BitVec 12) : (r.setMf i v).frgdLanes = r.frgdLanes := rfl
@[simp] theorem setMf_wrtLanes (r : Regs) (i : BitVec 4) (v : BitVec 12) : (r.setMf i v).wrtLanes = r.wrtLanes := rfl
@[simp] theorem setMf_rdLanes (r : Regs) (i : BitVec 4) (v : BitVec 12) : (r.setMf i v).rdLanes = r.rdLanes := rfl
@[simp] theorem setMf_cmpLanes (r : Regs) (i : BitVec 4) (v : BitVec 12) : (r.setMf i v).cmpLanes = r.cmpLanes := rfl
@[simp] theorem setMf_bkgdMix (r : Regs) (i : BitVec 4) (v : BitVec 12) : (r.setMf i v).bkgdMix = r.bkgdMix := rfl
@[simp] theorem setMf_frgdMix (r : Regs) (i : BitVec 4) (v : BitVec 12) : (r.setMf i v).frgdMix = r.frgdMix := rfl
@[simp] theorem setMf_cmd (r : Regs) (i : BitVec 4) (v : BitVec 12) : (r.setMf i v).cmd = r.cmd := rfl
@[simp] theorem setMf_shortStroke (r : Regs) (i : BitVec 4) (v : BitVec 12) : (r.setMf i v).shortStroke = r.shortStroke := rfl
@[simp] theorem setMf_mfLatch (r : Regs) (i : BitVec 4) (v : BitVec 12) : (r.setMf i v).mfLatch = r.mfLatch := rfl
@[simp] theorem setMf_pixTrans (r : Regs) (i : BitVec 4) (v : BitVec 12) : (r.setMf i v).pixTrans = r.pixTrans := rfl
@[simp] theorem setMf_advfunc (r : Regs) (i : BitVec 4) (v : BitVec 12) : (r.setMf i v).advfunc = r.advfunc := rfl
@[simp] theorem setMf_subsysStat (r : Regs) (i : BitVec 4) (v : BitVec 12) : (r.setMf i v).subsysStat = r.subsysStat := rfl
@[simp] theorem setMf_subsysEn (r : Regs) (i : BitVec 4) (v : BitVec 12) : (r.setMf i v).subsysEn = r.subsysEn := rfl

/-- The entry just stored reads back. -/
@[simp] theorem mf_setMf_same (r : Regs) (i : BitVec 4) (v : BitVec 12) : (r.setMf i v).mf i = v := by
  simp [Regs.mf, Regs.setMf]

/-- Storing an entry leaves the others alone. -/
theorem mf_setMf_other (r : Regs) (i j : BitVec 4) (v : BitVec 12) (h : i ≠ j) :
    (r.setMf i v).mf j = r.mf j := by
  have : i.toNat ≠ j.toNat := fun e => h (BitVec.eq_of_toNat_eq e)
  simp [Regs.mf, Regs.setMf, this]

/-- Nothing is put before the waiting parts when an access has one part only. -/
@[simp] theorem pushParts_nil (s : State) : pushParts [] s = s := rfl

end Sys2Proof.Machine
end

