-- ==== Sys2Proof/Laws/Walk.lean ====
section
/-!
SUPPORT. What one visited pixel and a whole walk can do, said once.
-/
namespace Sys2Proof.Machine

/-- A visited pixel leaves VRAM as it is or writes its own pixel. -/
theorem pixelVram_cases (s : State) (x y : Int) (v p : Option Word) (sup : Bool) :
    s.pixelVram x y v p sup = s.vram ∨
      ∃ w, s.pixelVram x y v p sup =
        writePixel s.cfg s.vram (pixAddr s.cfg s.cfg.destBase (reduce s.cfg x) (reduce s.cfg y)) w := by
  unfold State.pixelVram
  simp only
  split
  · split
    · exact .inl rfl
    · split
      · exact .inr ⟨_, rfl⟩
      · exact .inl rfl
  · exact .inl rfl

/-- A visited pixel keeps VRAM canonical and inside the installed memory. -/
theorem pixel_memory (s : State) (x y : Int) (v p : Option Word) (sup : Bool)
    (h : Memory.wf s.vram = true ∧ Memory.below (2 ^ s.cfg.vramBits) s.vram = true) :
    Memory.wf (pixel x y v p sup s).vram = true ∧
      Memory.below (2 ^ s.cfg.vramBits) (pixel x y v p sup s).vram = true := by
  rw [pixel_vram]
  rcases pixelVram_cases s x y v p sup with e | ⟨w, e⟩ <;> rw [e]
  · exact h
  · exact ⟨wf_writePixel _ _ _ _ h.1, below_writePixel _ _ _ _ h.2⟩

/-- The working state a visited pixel leaves alone: all but the CPU data and the byte-doubling phase. -/
theorem pixelEng_rest (s : State) :
    s.pixelEng = { s.eng with
      cpuBits := s.pixelEng.cpuBits, cpuPix := s.pixelEng.cpuPix, phase16 := s.pixelEng.phase16 } := rfl

/-- A walk either finishes at a state where its last pixel has been visited, or stops where its data ran out or
its bound was reached; what every visit and every advance keeps holds there. -/
theorem runWalk_cases (last : State → Bool) (visit advance finish : State → State) (P : State → Prop)
    (hv : ∀ s, P s → P (visit s)) (ha : ∀ s, P s → last s = false → P (advance s)) :
    ∀ (n : Nat) (s : State), P s →
      (∃ t, P t ∧ last t = true ∧ runWalk last visit advance finish n s = finish t) ∨
        P (runWalk last visit advance finish n s)
  | 0, s, hs => .inr hs
  | n + 1, s, hs => by
    rw [runWalk]
    split
    · split
      · rename_i h
        exact .inl ⟨_, hv s hs, h, rfl⟩
      · rename_i h
        exact runWalk_cases last visit advance finish P hv ha n _ (ha _ (hv s hs) (by simpa using h))
    · exact .inr hs

/-- A walk's step where there is data. -/
theorem runWalk_step (last : State → Bool) (visit advance finish : State → State) (n : Nat) (s : State)
    (hd : s.hasData = true) :
    runWalk last visit advance finish (n + 1) s =
      if last (visit s) then finish (visit s) else runWalk last visit advance finish n (advance (visit s)) := by
  rw [runWalk, if_pos hd]

/-- An operation that takes no CPU data always has data (R249). -/
theorem hasData_of_not_takesCpu (s : State) (h : takesCpu s.eng.cmd = false) : s.hasData = true := by
  simp [State.hasData, h]

end Sys2Proof.Machine
end

