-- ==== Sys2Proof/Laws/Drawing.lean ====
section
/-!
SUPPORT. What drawing can change, said once: VRAM, the working state, the counter of free values, and the registers
an operation writes back (the two positions, the error term and the interrupt status).
-/
namespace Sys2Proof.Machine

/-- The registers no operation writes back, the others blanked. -/
def Regs.rest (r : Regs) : Regs :=
  { r with curX := 0, curY := 0, curX2 := 0, curY2 := 0, errTerm := 0, subsysStat := 0 }

/-- The part of the machine drawing leaves alone. -/
def restOf (s : State) : State := { s with vram := [], eng := Eng.reset, draws := 0, regs := s.regs.rest }

theorem cfg_of_rest {s t : State} (h : restOf t = restOf s) : t.cfg = s.cfg := by
  have e := congrArg State.cfg h
  exact e

theorem inputs_of_rest {s t : State} (h : restOf t = restOf s) : t.inputs = s.inputs := by
  have e := congrArg State.inputs h
  exact e

theorem fifo_of_rest {s t : State} (h : restOf t = restOf s) : t.fifo = s.fifo := by
  have e := congrArg State.fifo h
  exact e

theorem host_of_rest {s t : State} (h : restOf t = restOf s) : t.host = s.host := by
  have e := congrArg State.host h
  exact e

theorem regs_of_rest {s t : State} (h : restOf t = restOf s) : t.regs.rest = s.regs.rest := by
  have e := congrArg State.regs h
  exact e

/-- Registers that agree but for what drawing writes back. -/
theorem regs_eq_of_rest {a b : Regs} (h : a.rest = b.rest) :
    a = { b with curX := a.curX, curY := a.curY, curX2 := a.curX2, curY2 := a.curY2, errTerm := a.errTerm,
                 subsysStat := a.subsysStat } := by
  cases a
  cases b
  simp only [Regs.rest, Regs.mk.injEq] at h ⊢
  simp [h]

@[simp] theorem restOf_pixel (x y : Int) (v p : Option Word) (sup : Bool) (s : State) :
    restOf (pixel x y v p sup s) = restOf s := rfl

@[simp] theorem restOf_eng (s : State) (e : Eng) : restOf { s with eng := e } = restOf s := rfl

@[simp] theorem restOf_opDone (s : State) : restOf (opDone s) = restOf s := rfl

@[simp] theorem restOf_raiseIrq (b : Nat) (s : State) : restOf (raiseIrq b s) = restOf s := rfl

/-- A walk changes what its visit, its step and its end change. -/
theorem restOf_runWalk (last : State → Bool) (visit advance finish : State → State)
    (hv : ∀ s, restOf (visit s) = restOf s) (ha : ∀ s, restOf (advance s) = restOf s)
    (hf : ∀ s, restOf (finish s) = restOf s) :
    ∀ (n : Nat) (s : State), restOf (runWalk last visit advance finish n s) = restOf s
  | 0, _ => rfl
  | n + 1, s => by
    rw [runWalk]
    split
    · split
      · rw [hf, hv]
      · rw [restOf_runWalk last visit advance finish hv ha hf n, ha, hv]
    · rfl

theorem restOf_polySpan : ∀ (n : Nat) (x : Int) (s : State), restOf (polySpan n x s) = restOf s
  | 0, _, _ => rfl
  | n + 1, x, s => by rw [polySpan, restOf_polySpan n, restOf_pixel]

theorem restOf_polyLoop : ∀ (n : Nat) (s : State), restOf (polyLoop n s) = restOf s
  | 0, _ => rfl
  | n + 1, s => by
    rw [polyLoop, restOf_polyLoop n]
    show restOf (polySpan _ _ s) = restOf s
    exact restOf_polySpan _ _ _

theorem restOf_strokeWalk (d : BitVec 3) :
    ∀ (n : Nat) (x y : Int) (s : State), restOf (strokeWalk d n x y s) = restOf s
  | 0, _, _, _ => rfl
  | n + 1, x, y, s => by rw [strokeWalk, restOf_strokeWalk d n, restOf_pixel]

theorem restOf_lineRun (s : State) : restOf (lineRun s) = restOf s := by
  unfold lineRun
  apply restOf_runWalk <;> intros <;> rfl

theorem restOf_radialRun (s : State) : restOf (radialRun s) = restOf s := by
  unfold radialRun
  apply restOf_runWalk <;> intros <;> rfl

theorem restOf_rectRun (s : State) : restOf (rectRun s) = restOf s := by
  unfold rectRun
  apply restOf_runWalk <;> intros <;> rfl

theorem restOf_ropRun (s : State) : restOf (ropRun s) = restOf s := by
  unfold ropRun
  apply restOf_runWalk <;> intros <;> rfl

theorem restOf_polylineRun (s : State) : restOf (polylineRun s) = restOf s := by
  unfold polylineRun
  apply restOf_runWalk <;> intros <;> rfl

theorem restOf_blitRun (s : State) : restOf (blitRun s) = restOf s := by
  unfold blitRun
  apply restOf_runWalk <;> intros <;> rfl

theorem restOf_patRun (s : State) : restOf (patRun s) = restOf s := by
  unfold patRun
  apply restOf_runWalk <;> intros <;> rfl

theorem restOf_polyRun (s : State) : restOf (polyRun s) = restOf s := restOf_polyLoop _ s

/-- Running an operation changes VRAM, the working state and the registers it writes back, nothing else. -/
@[simp] theorem restOf_runOp (s : State) : restOf (runOp s) = restOf s := by
  unfold runOp
  split
  · rfl
  · split
    · exact restOf_radialRun s
    · exact restOf_lineRun s
  · exact restOf_rectRun s
  · exact restOf_polyRun s
  · exact restOf_ropRun s
  · exact restOf_polylineRun s
  · exact restOf_blitRun s
  · exact restOf_patRun s

/-- The start of every class only latches working values. -/
theorem initOp_eq (s : State) : initOp s = { s with eng := (initOp s).eng } := by
  unfold initOp
  split
  · rfl
  · split <;> rfl
  · split <;> rfl
  · rfl
  · rfl
  · rfl
  · rfl
  · rfl

@[simp] theorem restOf_initOp (s : State) : restOf (initOp s) = restOf s := by rw [initOp_eq, restOf_eng]

@[simp] theorem restOf_beginOp (s : State) : restOf (beginOp s) = restOf s := by
  have h : restOf (activate (initOp s)) = restOf s := restOf_initOp s
  unfold beginOp
  simp only
  split
  · exact h
  · rw [restOf_runOp, h]

/-- A start answers a next state that drew, or a refusal. -/
theorem startOp_cases (s : State) :
    (∃ t, startOp s = .next t ∧ restOf t = restOf s) ∨ (∃ r, startOp s = .refused r) := by
  unfold startOp
  simp only
  split
  · split
    · exact .inr ⟨_, rfl⟩
    · exact .inl ⟨_, rfl, by rw [restOf_beginOp]; rfl⟩
  · exact .inl ⟨_, rfl, rfl⟩

/-- A stroke answers a next state that drew, or a refusal. -/
theorem stroke_cases (b : Byte) (s : State) :
    (∃ t, stroke b s = .next t ∧ restOf t = restOf s) ∨ (∃ r, stroke b s = .refused r) := by
  unfold stroke
  split
  · unfold ssv
    split
    · exact .inr ⟨_, rfl⟩
    · exact .inl ⟨_, rfl, by unfold strokeRun; rw [restOf_strokeWalk]; rfl⟩
  · exact .inl ⟨_, rfl, rfl⟩

/-- A fed unit answers a next state that drew, or a refusal. -/
theorem feed_cases (u : Word) (s : State) :
    (∃ t, feed u s = .next t ∧ restOf t = restOf s) ∨ (∃ r, feed u s = .refused r) := by
  unfold feed
  split
  · exact .inr ⟨_, rfl⟩
  · refine .inl ⟨_, rfl, ?_⟩
    rw [restOf_runOp]
    unfold appendUnit
    simp only
    split <;> rfl

/-- One byte of a pixel-transfer write stages the byte, and where it completes a unit it may draw. -/
theorem pixByte_cases (b : Byte) (s : State) :
    (∃ t, pixByte b s = .next t ∧ restOf t = restOf (stageByte b s)) ∨ (∃ r, pixByte b s = .refused r) := by
  unfold pixByte
  simp only
  split
  · split
    · rcases feed_cases (stagedUnit (setPixCount 0 (stageByte b s)).regs.pixTrans (s.eng.pixCount.toNat + 1))
        (setPixCount 0 (stageByte b s)) with ⟨t, h, e⟩ | ⟨r, h⟩
      · exact .inl ⟨t, h, e⟩
      · exact .inr ⟨r, h⟩
    · exact .inl ⟨_, rfl, rfl⟩
  · exact .inl ⟨_, rfl, rfl⟩

end Sys2Proof.Machine
end

