-- ==== Sys2Proof/Laws/HostAccess.lean ====
section
/-!
SUPPORT. What a host access can do, said once: the access handled whole, and each of its outcomes (dispatched,
queued, held, read, dropped).
-/
namespace Sys2Proof.Machine

/-! ### What the host decides of an access (R102, R190) -/

/-- A write that reaches the block is queued or direct (R150). -/
theorem routeOf_write (s : State) (t : Target) (w : Width) (v : Word) (h1 : t ≠ .unmapped) (h2 : t ≠ .streams) :
    s.routeOf t (.write w v) = if queueable t && s.queuing then .queued else .drained := by
  unfold State.routeOf
  split <;> simp_all

/-- A read that reaches the block waits for the drain in FIFO mode alone (R170). -/
theorem routeOf_read (s : State) (t : Target) (w : Width) (h1 : t ≠ .unmapped) (h2 : t ≠ .streams) :
    s.routeOf t (.read w) = if s.enableFifo then .drained else .atOnce := by
  unfold State.routeOf
  split <;> simp_all

@[simp] theorem routeOf_unmapped (s : State) (act : BusAction) : s.routeOf .unmapped act = .atOnce := rfl

@[simp] theorem routeOf_streams (s : State) (act : BusAction) : s.routeOf .streams act = .atOnce := rfl

@[simp] theorem blocks_queued (f : Fifo) : f.blocks .queued = f.full := rfl

@[simp] theorem blocks_drained (f : Fifo) : f.blocks .drained = !f.drained := rfl

@[simp] theorem blocks_atOnce (f : Fifo) : f.blocks .atOnce = false := rfl

/-- A part the host has come to keeps what was decided of it. -/
@[simp] theorem decisionOf_decideAs (s : State) (p : Part) (d : Decision) : s.decisionOf (p.decideAs d) = d := rfl

/-- Whether a decided part is held is a question of the FIFO alone: no signal lifts or makes a hold (R201). -/
@[simp] theorem held_decideAs (s : State) (p : Part) (d : Decision) :
    s.held (p.decideAs d) = s.fifo.blocks d.route := rfl

@[simp] theorem waits_decideAs (s : State) (p : Part) (d : Decision) :
    s.waits (p.decideAs d) = s.fifo.blocks d.route := by simp [State.waits, Part.decideAs, State.held, State.decisionOf]

/-- A part about which nothing is decided does not wait: the host has not come to it. -/
@[simp] theorem waits_undecided (s : State) (p : Part) : s.waits p.undecided = false := rfl

/-- After a device reset no access is held, and no decision is left (R450, R451). -/
theorem deviceReset_hostHeld (held : Bool) (s : State) : (deviceReset held s).hostHeld = false := by
  cases held
  · simp only [State.hostHeld, deviceReset_host, dropHeld]
    cases s.host.pending <;> simp
  · rfl

/-- A held part waits with what is decided of it. -/
theorem runPart_held (p : Part) (s : State) (h : s.held p = true) :
    runPart p s = .next (holdPart (p.decideAs (s.decisionOf p)) s) := by
  simp [runPart, h]

/-- A write that is not held goes where it was decided to go (R150). -/
theorem runPart_write (p : Part) (s : State) (w : Width) (v : Word) (ha : p.act = .write w v)
    (h : s.held p = false) : runPart p s = writePart p (s.decisionOf p) w v s := by
  simp [runPart, h, ha]

/-- A read that is not held reads what it was decided to reach (R170). -/
theorem runPart_read (p : Part) (s : State) (w : Width) (ha : p.act = .read w) (h : s.held p = false) :
    runPart p s = readAccess p (s.decisionOf p).target w s := by
  simp [runPart, h, ha]

/-- The one part of an access that is handled whole. -/
def wholePart (sp : Space) (a : Nat) (act : BusAction) : Part :=
  ⟨sp, a, partAction act 0 act.width, 0, act.width, true, none⟩

@[simp] theorem partAction_write (w : Width) (v : Word) :
    partAction (.write w v) 0 w = .write w (v &&& widthMask w) := by simp [partAction]

@[simp] theorem partAction_read (w : Width) (lane : Nat) : partAction (.read w) lane w = .read w := rfl

/-- What is decided of an access handled whole. -/
@[simp] theorem wholePart_decision (s : State) (sp : Space) (a : Nat) (act : BusAction) :
    s.decisionOf (wholePart sp a act) =
      ⟨resolve s.cfg s.inputs sp a act.width, s.routeOf (resolve s.cfg s.inputs sp a act.width) act⟩ := by
  cases act <;> rfl

/-- Whether an access handled whole is held. -/
theorem wholePart_held (s : State) (sp : Space) (a : Nat) (act : BusAction) :
    s.held (wholePart sp a act) = s.fifo.blocks (s.routeOf (resolve s.cfg s.inputs sp a act.width) act) := by
  simp [State.held]

/-- An access handled whole has one part. -/
theorem splitOf_whole (cfg : Config) (inp : Inputs) (sp : Space) (a : Nat) (w : Width)
    (h : handledWhole cfg inp sp a w = true) : splitOf cfg inp sp a w = [(0, w)] := by
  cases w <;> simp [splitOf, split16, h]

/-- A byte access is always handled whole. -/
theorem handledWhole_w8 (cfg : Config) (inp : Inputs) (sp : Space) (a : Nat) :
    handledWhole cfg inp sp a .w8 = true := by
  simp only [handledWhole, widthBytes, nothingDecodes]
  by_cases h : resolve cfg inp sp a .w8 = .unmapped <;> simp [h]

/-- An access that decodes as a whole is handled whole. -/
theorem handledWhole_of_ne (cfg : Config) (inp : Inputs) (sp : Space) (a : Nat) (w : Width)
    (h : resolve cfg inp sp a w ≠ .unmapped) : handledWhole cfg inp sp a w = true := by
  simp [handledWhole, h]

/-- An access handled whole is its one part. -/
theorem hostAccess_whole (sp : Space) (a : Nat) (act : BusAction) (s : State)
    (hr : reaches s.cfg s.inputs sp = true) (ha : aliased s.cfg sp a = a)
    (hw : handledWhole s.cfg s.inputs sp a act.width = true) :
    hostAccess sp a act s = runPart (wholePart sp a act) s := by
  simp [hostAccess, hr, ha, accessParts, splitOf_whole _ _ _ _ _ hw, partsFrom, wholePart]

/-- An access whose space is not enabled (R89). -/
theorem hostAccess_missed (sp : Space) (a : Nat) (act : BusAction) (s : State)
    (hr : reaches s.cfg s.inputs sp = false) : hostAccess sp a act s = .next (missAccess act s) := by
  simp [hostAccess, hr]

/-- A direct write that nothing holds is dispatched (R150). -/
theorem hostAccess_dispatch (sp : Space) (a : Nat) (w : Width) (v : Word) (s : State)
    (hr : reaches s.cfg s.inputs sp = true) (ha : aliased s.cfg sp a = a)
    (h1 : resolve s.cfg s.inputs sp a w ≠ .unmapped) (h2 : resolve s.cfg s.inputs sp a w ≠ .streams)
    (hq : (queueable (resolve s.cfg s.inputs sp a w) && s.queuing) = false) (hd : s.fifo.drained = true) :
    hostAccess sp a (.write w v) s = dispatch (resolve s.cfg s.inputs sp a w) w (v &&& widthMask w) s := by
  have hroute : s.routeOf (resolve s.cfg s.inputs sp a w) (.write w v) = .drained := by
    rw [routeOf_write s _ w v h1 h2, hq]; rfl
  rw [hostAccess_whole sp a (.write w v) s hr ha (handledWhole_of_ne _ _ _ _ _ h1),
    runPart_write _ s w (v &&& widthMask w) (by simp [wholePart, BusAction.width])
      (by rw [wholePart_held]; simp [BusAction.width, hroute, hd])]
  simp [writePart, BusAction.width, hroute]

/-- A queued write while the FIFO has room goes into it (R192). -/
theorem hostAccess_enqueue (sp : Space) (a : Nat) (w : Width) (v : Word) (s : State)
    (hr : reaches s.cfg s.inputs sp = true) (ha : aliased s.cfg sp a = a)
    (hk : queueable (resolve s.cfg s.inputs sp a w) = true) (hq : s.queuing = true)
    (hf : s.fifo.full = false) :
    hostAccess sp a (.write w v) s =
      .next (pushEntry (entryOf sp a w (v &&& widthMask w) (resolve s.cfg s.inputs sp a w)) s) := by
  have h1 : resolve s.cfg s.inputs sp a w ≠ .unmapped := by intro h; simp [h, queueable] at hk
  have h2 : resolve s.cfg s.inputs sp a w ≠ .streams := by intro h; simp [h, queueable] at hk
  have hroute : s.routeOf (resolve s.cfg s.inputs sp a w) (.write w v) = .queued := by
    rw [routeOf_write s _ w v h1 h2, hk, hq]; rfl
  rw [hostAccess_whole sp a (.write w v) s hr ha (handledWhole_of_ne _ _ _ _ _ h1),
    runPart_write _ s w (v &&& widthMask w) (by simp [wholePart, BusAction.width])
      (by rw [wholePart_held]; simp [BusAction.width, hroute, hf])]
  simp only [writePart, wholePart_decision, BusAction.width, hroute]
  rfl

/-- A held access waits: only its part is put aside, with what was decided of it (R192, R197, R198). -/
theorem hostAccess_held (sp : Space) (a : Nat) (act : BusAction) (s : State)
    (hr : reaches s.cfg s.inputs sp = true) (ha : aliased s.cfg sp a = a)
    (hw : handledWhole s.cfg s.inputs sp a act.width = true)
    (hh : s.fifo.blocks (s.routeOf (resolve s.cfg s.inputs sp a act.width) act) = true) :
    hostAccess sp a act s = .next (holdPart ((wholePart sp a act).decideAs
      ⟨resolve s.cfg s.inputs sp a act.width, s.routeOf (resolve s.cfg s.inputs sp a act.width) act⟩) s) := by
  rw [hostAccess_whole sp a act s hr ha hw, runPart_held _ s (by rw [wholePart_held]; exact hh),
    wholePart_decision]

/-- A read that nothing holds returns the value of `ReadValue` (R170). -/
theorem hostAccess_read (sp : Space) (a : Nat) (w : Width) (s : State)
    (hr : reaches s.cfg s.inputs sp = true) (ha : aliased s.cfg sp a = a)
    (hw : handledWhole s.cfg s.inputs sp a w = true)
    (h2 : resolve s.cfg s.inputs sp a w ≠ .streams)
    (hn : s.enableFifo = false ∨ s.fifo.drained = true) :
    hostAccess sp a (.read w) s =
      .next (returnRead w (readValue (resolve s.cfg s.inputs sp a w) w s).1
        (readValue (resolve s.cfg s.inputs sp a w) w s).2) := by
  have hb : s.fifo.blocks (s.routeOf (resolve s.cfg s.inputs sp a w) (.read w)) = false := by
    by_cases h1 : resolve s.cfg s.inputs sp a w = .unmapped
    · rw [h1]; rfl
    · rw [routeOf_read s _ w h1 h2]
      cases he : s.enableFifo
      · rfl
      · rcases hn with hn | hn
        · simp [he] at hn
        · simp [hn]
  rw [hostAccess_whole sp a (.read w) s hr ha hw,
    runPart_read _ s w rfl (by rw [wholePart_held]; exact hb), wholePart_decision]
  simp only [BusAction.width]
  unfold readAccess
  split
  · exact absurd ‹_› h2
  · simp [gather, wholePart, BusAction.width]

/-- A write that reaches nothing changes nothing (R112). -/
theorem hostAccess_unmapped_write (sp : Space) (a : Nat) (w : Width) (v : Word) (s : State)
    (hr : reaches s.cfg s.inputs sp = true) (ha : aliased s.cfg sp a = a)
    (hw : handledWhole s.cfg s.inputs sp a w = true) (h1 : resolve s.cfg s.inputs sp a w = .unmapped) :
    hostAccess sp a (.write w v) s = .next s := by
  rw [hostAccess_whole sp a (.write w v) s hr ha hw,
    runPart_write _ s w (v &&& widthMask w) (by simp [wholePart, BusAction.width])
      (by rw [wholePart_held]; simp [BusAction.width, h1])]
  simp [writePart, BusAction.width, h1, dispatch]

/-! ### Ports -/

/-- A port of the map is no byte of the pixel-transfer port. -/
theorem not_pixPort (r : PortReg) (odd : Bool) : isPixPort (portAddr r odd) = false := by
  cases r <;> cases odd <;> decide

/-- The port map gives a register's two ports back. -/
theorem findPort_portAddr (r : PortReg) (odd : Bool) : findPort (portAddr r odd) = some (r, odd) := by
  cases r <;> cases odd <;> decide

/-- A port of the map resolves to its register, where the chip has it (R112). -/
theorem resolvePort_portAddr (cap : Cap) (r : PortReg) (odd : Bool) (w : Width)
    (h : isSecondPoint r = true → hasSecondPoint cap = true) :
    resolvePort cap (portAddr r odd) w = regTarget r odd w := by
  simp only [resolvePort, not_pixPort, findPort_portAddr]
  cases hs : isSecondPoint r <;> simp_all

/-- An I/O access at a port of the map. -/
theorem resolve_io (cfg : Config) (inp : Inputs) (r : PortReg) (odd : Bool) (w : Width)
    (h : isSecondPoint r = true → hasSecondPoint cfg.cap = true) :
    resolve cfg inp .io (portAddr r odd) w = regTarget r odd w := resolvePort_portAddr cfg.cap r odd w h

/-- A byte of the pixel-transfer port, or a wider access at its base, reaches it (R86, R110). -/
theorem resolvePort_pix (cap : Cap) (a : Nat) (w : Width) (h : isPixPort a = true) (hw : w = .w8 ∨ a = pixPortLo) :
    resolvePort cap a w = .pix (a % 4) := by
  simp [resolvePort, h, pixTarget, hw]

/-- An address without a second name is itself. -/
theorem aliased_of_none (cfg : Config) (sp : Space) (a : Nat) (h : findAlias a cfg.aliases = none) :
    aliased cfg sp a = a := by
  simp [aliased, h]

/-- An access at a second name is the access at the port it stands for (R111). -/
theorem hostAccess_second_name (sp : Space) (a p : Nat) (act : BusAction) (s : State)
    (hs : sp = .io ∨ (0x8000 ≤ a ∧ a < 0x10000)) (ha : findAlias a s.cfg.aliases = some p)
    (hp : findAlias p s.cfg.aliases = none) : hostAccess sp a act s = hostAccess sp p act s := by
  have h1 : aliased s.cfg sp a = p := by unfold aliased; rw [if_pos hs, ha]; rfl
  simp only [hostAccess, h1, aliased_of_none _ _ _ hp]

end Sys2Proof.Machine
end

