-- ==== Sys2Proof/Laws/Exec.lean ====
section
/-!
SUPPORT. Every instruction is the bus access `accessOf` names.
-/
namespace Sys2Proof.Machine

/-- The meaning of an instruction is its bus access. -/
theorem exec_access (i : Instr) (s : State) :
    exec i s = hostAccess (accessOf i).1 (accessOf i).2.1 (accessOf i).2.2 s := by
  cases i <;> rfl

end Sys2Proof.Machine
end

