-- ==== Sys2Proof/Laws/Fifo.lean ====
section
/-!
SUPPORT. The ring and its slots, what a dispatched write can change, and what a drain step can do, said once.
-/
namespace Sys2Proof.Machine

/-! ### The ring -/

/-- A slot written reads as what was written. -/
theorem readSlot_writeSlot_same (a : Nat) (e : FifoEntry) :
    ∀ ring : List (Nat × FifoEntry), readSlot (writeSlot ring a e) a = e
  | [] => by simp [writeSlot, readSlot]
  | (k, x) :: rest => by
    unfold writeSlot
    split
    · simp [readSlot]
    · split
      · simp [readSlot]
      · rename_i h
        simp [readSlot, Ne.symm h, readSlot_writeSlot_same a e rest]

/-- A slot not written reads as before. -/
theorem readSlot_writeSlot_other (a b : Nat) (e : FifoEntry) (h : b ≠ a) :
    ∀ ring : List (Nat × FifoEntry), readSlot (writeSlot ring a e) b = readSlot ring b
  | [] => by simp [writeSlot, readSlot, Ne.symm h]
  | (k, x) :: rest => by
    unfold writeSlot
    split
    · simp [readSlot, Ne.symm h]
    · split
      · rename_i hk
        subst hk
        simp [readSlot, Ne.symm h]
      · simp [readSlot, readSlot_writeSlot_other a b e h rest]

theorem mem_writeSlot (a : Nat) (e : FifoEntry) (c : Nat × FifoEntry) :
    ∀ ring : List (Nat × FifoEntry), c ∈ writeSlot ring a e → c = (a, e) ∨ c ∈ ring
  | [], h => by simpa [writeSlot] using h
  | (k, x) :: rest, h => by
    unfold writeSlot at h
    split at h
    · simpa using h
    · split at h
      · rcases List.mem_cons.mp h with h | h
        · exact .inl h
        · exact .inr (List.mem_cons_of_mem _ h)
      · rcases List.mem_cons.mp h with h | h
        · exact .inr (h ▸ List.mem_cons_self)
        · rcases mem_writeSlot a e c rest h with h | h
          · exact .inl h
          · exact .inr (List.mem_cons_of_mem _ h)

/-- Writing a slot of the ring keeps the ring's form. -/
theorem ringWf_writeSlot (a : Nat) (e : FifoEntry) (ha : a < Config.fifoSize) :
    ∀ ring : List (Nat × FifoEntry), ringWf ring = true → ringWf (writeSlot ring a e) = true
  | [], _ => by simp [writeSlot, ringWf, ha]
  | (k, x) :: rest, h => by
    simp only [ringWf, Bool.and_eq_true, decide_eq_true_eq, List.all_eq_true] at h
    unfold writeSlot
    split
    · rename_i hk
      simp only [ringWf, Bool.and_eq_true, decide_eq_true_eq, List.all_eq_true]
      refine ⟨⟨ha, fun c hc => ?_⟩, h⟩
      rcases List.mem_cons.mp hc with rfl | hc
      · exact hk
      · exact Nat.lt_trans hk (h.1.2 c hc)
    · split
      · rename_i hk
        subst hk
        simp only [ringWf, Bool.and_eq_true, decide_eq_true_eq, List.all_eq_true]
        exact h
      · rename_i h1 h2
        simp only [ringWf, Bool.and_eq_true, decide_eq_true_eq, List.all_eq_true]
        refine ⟨⟨h.1.1, fun c hc => ?_⟩, ringWf_writeSlot a e ha rest h.2⟩
        rcases mem_writeSlot a e c rest hc with rfl | hc
        · show k < a
          omega
        · exact h.1.2 c hc

/-- A slot of the ring lies inside it. -/
theorem slotOf_lt (i : Word) : slotOf i < Config.fifoSize := Nat.mod_lt _ (by decide)

/-! ### A dispatched write -/

/-- The part of the machine a dispatched write leaves alone: the session, the signals, the FIFO, and of the host's
side all but the event history. -/
def contextOf (s : State) : Config × Inputs × Fifo × HostSide :=
  (s.cfg, s.inputs, s.fifo, { s.host with history := [] })

theorem context_of_rest {s t : State} (h : restOf t = restOf s) : contextOf t = contextOf s := by
  unfold contextOf
  rw [cfg_of_rest h, inputs_of_rest h, fifo_of_rest h, host_of_rest h]

/-- A result that keeps the context where it is a next state, and is no fault. -/
def KeepsContext (s : State) (r : Result) : Prop :=
  (∃ t, r = .next t ∧ contextOf t = contextOf s) ∨ ∃ e, r = .refused e

theorem KeepsContext.bind {s : State} {r : Result} {f : State → Result} (h : KeepsContext s r)
    (hf : ∀ t, contextOf t = contextOf s → KeepsContext s (f t)) : KeepsContext s (thenNext r f) := by
  rcases h with ⟨t, rfl, ht⟩ | ⟨e, rfl⟩
  · exact hf t ht
  · exact .inr ⟨e, rfl⟩

theorem keeps_startOp {s u : State} (h : contextOf u = contextOf s) : KeepsContext s (startOp u) := by
  rcases startOp_cases u with ⟨t, e, ht⟩ | ⟨r, e⟩
  · exact .inl ⟨t, e, (context_of_rest ht).trans h⟩
  · exact .inr ⟨r, e⟩

theorem keeps_stroke (b : Byte) {s u : State} (h : contextOf u = contextOf s) : KeepsContext s (stroke b u) := by
  rcases stroke_cases b u with ⟨t, e, ht⟩ | ⟨r, e⟩
  · exact .inl ⟨t, e, (context_of_rest ht).trans h⟩
  · exact .inr ⟨r, e⟩

theorem keeps_writePix : ∀ (bs : List Byte) {s u : State}, contextOf u = contextOf s →
    KeepsContext s (writePix bs u)
  | [], _, u, h => .inl ⟨u, rfl, h⟩
  | b :: bs, s, u, h => by
    refine KeepsContext.bind ?_ (fun t ht => keeps_writePix bs ht)
    rcases pixByte_cases b u with ⟨t, e, ht⟩ | ⟨r, e⟩
    · exact .inl ⟨t, e, (context_of_rest ht).trans h⟩
    · exact .inr ⟨r, e⟩

theorem keeps_writeReg (r : PortReg) (part : RegPart) (v : Word) (s : State) :
    KeepsContext s (writeReg r part v s) := by
  cases r
  case cmd =>
    cases part
    · exact .inl ⟨_, rfl, rfl⟩
    · exact keeps_startOp rfl
    · exact keeps_startOp rfl
  case shortStroke =>
    cases part
    · exact keeps_stroke _ rfl
    · exact keeps_stroke _ rfl
    · exact KeepsContext.bind (keeps_stroke _ rfl) (fun t ht => keeps_stroke _ ht)
  all_goals exact .inl ⟨_, rfl, rfl⟩

/-- A dispatched write changes neither the session nor the signals, the FIFO or the waiting accesses, and never
faults. -/
theorem keeps_dispatch (t : Target) (w : Width) (v : Word) (s : State) : KeepsContext s (dispatch t w v s) := by
  cases t with
  | reg r part => exact keeps_writeReg r part v s
  | packed k => cases k <;> exact .inl ⟨_, rfl, rfl⟩
  | pix _ => exact keeps_writePix _ rfl
  | unmapped => exact .inl ⟨_, rfl, rfl⟩
  | streams => exact .inr ⟨_, rfl⟩

/-- So does the application of a queued entry. -/
theorem keeps_applyEntry (e : FifoEntry) (s : State) : KeepsContext s (applyEntry e s) := by
  unfold applyEntry
  split
  · exact .inl ⟨_, rfl, rfl⟩
  · exact keeps_dispatch _ _ _ _

/-- A drain step ends with the head popped and the FIFO not busy, the rest of the context unchanged, or refuses. -/
theorem drain_cases (s : State) :
    (∃ t, drain s = .next t ∧ t.cfg = s.cfg ∧ t.inputs = s.inputs ∧
      t.fifo = { s.fifo with readIdx := s.fifo.readIdx + 1, busy := false } ∧
      { t.host with history := [] } = { s.host with history := [] }) ∨
      ∃ e, drain s = .refused e := by
  unfold drain
  rcases keeps_applyEntry s.fifo.head (popEntry s) with ⟨t, e, h⟩ | ⟨e, h⟩
  · refine .inl ⟨endDrain t, by rw [e]; rfl, ?_⟩
    simp only [contextOf, Prod.mk.injEq] at h
    obtain ⟨h1, h2, h3, h4⟩ := h
    have hf : ({ t.fifo with busy := false } : Fifo) =
        { s.fifo with readIdx := s.fifo.readIdx + 1, busy := false } := by rw [h3]; rfl
    unfold endDrain
    simp only
    split
    · exact ⟨h1, h2, hf, h4⟩
    · exact ⟨h1, h2, hf, h4⟩
  · exact .inr ⟨e, by rw [h]; rfl⟩

end Sys2Proof.Machine
end

