-- ==== Sys2Proof/Laws/PerInstr.lean ====
section
/-!
SUPPORT. The per-instruction family `Canonical`: the record the encoder writes for a well-formed bus operation uses
no reserved code and addresses its own space.
-/
namespace Sys2Proof.Laws.Canonical

/-- The control byte of the record has no reserved bit, width or space, and its address lies inside the space. -/
def RecordOk (r : Record) : Prop :=
  r.ctrl.getLsbD 7 = false ∧ (widthOf r.ctrl).isSome = true ∧
    ∃ sp, spaceOf r.ctrl = some sp ∧ r.addr.toNat < spaceSize sp

/-- The record of a well-formed bus operation is canonical. -/
def Statement (i : Instr) : Prop := i.wf = true → RecordOk (encodeRecord i)

theorem ctrl_top (fmt : BitVec 2) (sp : Space) (rd : Bool) (w : Width) :
    (ctrlByte fmt sp rd w).getLsbD 7 = false := by
  cases sp <;> cases rd <;> cases w <;> revert fmt <;> decide

theorem ctrl_width (fmt : BitVec 2) (sp : Space) (rd : Bool) (w : Width) :
    widthOf (ctrlByte fmt sp rd w) = some w := by
  cases sp <;> cases rd <;> cases w <;> revert fmt <;> decide

theorem ctrl_space (fmt : BitVec 2) (sp : Space) (rd : Bool) (w : Width) :
    spaceOf (ctrlByte fmt sp rd w) = some sp := by
  cases sp <;> cases rd <;> cases w <;> revert fmt <;> decide

theorem access_ok (sp : Space) (a : Nat) (act : BusAction) (h : a < spaceSize sp) :
    RecordOk (accessRecord sp a act) := by
  have hb : spaceSize sp ≤ 2 ^ 24 := by cases sp <;> decide
  have ha : (BitVec.ofNat 24 a).toNat < spaceSize sp := by
    rw [BitVec.toNat_ofNat, Nat.mod_eq_of_lt (by omega)]
    exact h
  cases act with
  | write w v => exact ⟨ctrl_top .., by simp [accessRecord, ctrl_width], sp, by simp [accessRecord, ctrl_space], ha⟩
  | read w => exact ⟨ctrl_top .., by simp [accessRecord, ctrl_width], sp, by simp [accessRecord, ctrl_space], ha⟩

theorem cmd_ok (sp : Space) (c : Half) : RecordOk (cmdRecord sp c) :=
  ⟨ctrl_top .., by simp [cmdRecord, ctrl_width], sp, by simp [cmdRecord, ctrl_space],
    by cases sp <;> simp [cmdRecord, spaceSize]⟩

theorem stroke_ok (sp : Space) (hi : Bool) (b : Byte) : RecordOk (strokeRecord sp hi b) :=
  ⟨ctrl_top .., by simp [strokeRecord, ctrl_width], sp, by simp [strokeRecord, ctrl_space],
    by cases sp <;> cases hi <;> simp [strokeRecord, spaceSize]⟩

theorem port_lt (r : PortReg) (odd : Bool) : portAddr r odd < spaceSize .io := by
  cases r <;> cases odd <;> decide

theorem packed_lt (k : PackedReg) (win : Window) : packedOffset k < spaceSize win.space := by
  cases k <;> cases win <;> decide

theorem window_lt (win : Window) (a : Nat) (h : a < 0x10000) : a < spaceSize win.space := by
  cases win <;> simp only [Window.space, spaceSize] <;> omega

theorem nop (sp : Space) (o : CmdOpts) : Statement (.nop sp o) := fun _ => cmd_ok ..

theorem line (sp : Space) (o : CmdOpts) : Statement (.line sp o) := fun _ => cmd_ok ..

theorem lineRadial (sp : Space) (o : CmdOpts) : Statement (.lineRadial sp o) := fun _ => cmd_ok ..

theorem rect (sp : Space) (o : CmdOpts) : Statement (.rect sp o) := fun _ => cmd_ok ..

theorem rectCpu (sp : Space) (o : CmdOpts) : Statement (.rectCpu sp o) := fun _ => cmd_ok ..

theorem rectRead (sp : Space) (o : CmdOpts) : Statement (.rectRead sp o) := fun _ => cmd_ok ..

theorem polySolid (sp : Space) (o : CmdOpts) : Statement (.polySolid sp o) := fun _ => cmd_ok ..

theorem polyPat (sp : Space) (o : CmdOpts) : Statement (.polyPat sp o) := fun _ => cmd_ok ..

theorem ropblt (sp : Space) (o : CmdOpts) : Statement (.ropblt sp o) := fun _ => cmd_ok ..

theorem polyline (sp : Space) (o : CmdOpts) : Statement (.polyline sp o) := fun _ => cmd_ok ..

theorem bitblt (sp : Space) (o : CmdOpts) : Statement (.bitblt sp o) := fun _ => cmd_ok ..

theorem patfill (sp : Space) (o : CmdOpts) : Statement (.patfill sp o) := fun _ => cmd_ok ..

theorem ssv (sp : Space) (hi : Bool) (dir : BitVec 3) (draw : Bool) (len : BitVec 4) :
    Statement (.ssv sp hi dir draw len) := fun _ => stroke_ok ..

theorem outSubsysCntl (odd : Bool) (w : Width) (v : Word) : Statement (.outSubsysCntl odd w v) :=
  fun _ => access_ok _ _ _ (port_lt ..)

theorem inSubsysStat (odd : Bool) (w : Width) : Statement (.inSubsysStat odd w) := fun _ => access_ok _ _ _ (port_lt ..)

theorem outAdvfuncCntl (odd : Bool) (w : Width) (v : Word) : Statement (.outAdvfuncCntl odd w v) :=
  fun _ => access_ok _ _ _ (port_lt ..)

theorem inAdvfuncCntl (odd : Bool) (w : Width) : Statement (.inAdvfuncCntl odd w) := fun _ => access_ok _ _ _ (port_lt ..)

theorem outCurY (odd : Bool) (w : Width) (v : Word) : Statement (.outCurY odd w v) :=
  fun _ => access_ok _ _ _ (port_lt ..)

theorem inCurY (odd : Bool) (w : Width) : Statement (.inCurY odd w) := fun _ => access_ok _ _ _ (port_lt ..)

theorem outCurX (odd : Bool) (w : Width) (v : Word) : Statement (.outCurX odd w v) :=
  fun _ => access_ok _ _ _ (port_lt ..)

theorem inCurX (odd : Bool) (w : Width) : Statement (.inCurX odd w) := fun _ => access_ok _ _ _ (port_lt ..)

theorem outDestyAxstp (odd : Bool) (w : Width) (v : Word) : Statement (.outDestyAxstp odd w v) :=
  fun _ => access_ok _ _ _ (port_lt ..)

theorem inDestyAxstp (odd : Bool) (w : Width) : Statement (.inDestyAxstp odd w) := fun _ => access_ok _ _ _ (port_lt ..)

theorem outDestxDiastp (odd : Bool) (w : Width) (v : Word) : Statement (.outDestxDiastp odd w v) :=
  fun _ => access_ok _ _ _ (port_lt ..)

theorem inDestxDiastp (odd : Bool) (w : Width) : Statement (.inDestxDiastp odd w) := fun _ => access_ok _ _ _ (port_lt ..)

theorem outErrTerm (odd : Bool) (w : Width) (v : Word) : Statement (.outErrTerm odd w v) :=
  fun _ => access_ok _ _ _ (port_lt ..)

theorem inErrTerm (odd : Bool) (w : Width) : Statement (.inErrTerm odd w) := fun _ => access_ok _ _ _ (port_lt ..)

theorem outMajAxisPcnt (odd : Bool) (w : Width) (v : Word) : Statement (.outMajAxisPcnt odd w v) :=
  fun _ => access_ok _ _ _ (port_lt ..)

theorem inMajAxisPcnt (odd : Bool) (w : Width) : Statement (.inMajAxisPcnt odd w) := fun _ => access_ok _ _ _ (port_lt ..)

theorem outCmd (odd : Bool) (w : Width) (v : Word) : Statement (.outCmd odd w v) :=
  fun _ => access_ok _ _ _ (port_lt ..)

theorem inGpStat (odd : Bool) (w : Width) : Statement (.inGpStat odd w) := fun _ => access_ok _ _ _ (port_lt ..)

theorem outShortStroke (odd : Bool) (w : Width) (v : Word) : Statement (.outShortStroke odd w v) :=
  fun _ => access_ok _ _ _ (port_lt ..)

theorem inShortStroke (odd : Bool) (w : Width) : Statement (.inShortStroke odd w) := fun _ => access_ok _ _ _ (port_lt ..)

theorem outBkgdColor (odd : Bool) (w : Width) (v : Word) : Statement (.outBkgdColor odd w v) :=
  fun _ => access_ok _ _ _ (port_lt ..)

theorem inBkgdColor (odd : Bool) (w : Width) : Statement (.inBkgdColor odd w) := fun _ => access_ok _ _ _ (port_lt ..)

theorem outFrgdColor (odd : Bool) (w : Width) (v : Word) : Statement (.outFrgdColor odd w v) :=
  fun _ => access_ok _ _ _ (port_lt ..)

theorem inFrgdColor (odd : Bool) (w : Width) : Statement (.inFrgdColor odd w) := fun _ => access_ok _ _ _ (port_lt ..)

theorem outWrtMask (odd : Bool) (w : Width) (v : Word) : Statement (.outWrtMask odd w v) :=
  fun _ => access_ok _ _ _ (port_lt ..)

theorem inWrtMask (odd : Bool) (w : Width) : Statement (.inWrtMask odd w) := fun _ => access_ok _ _ _ (port_lt ..)

theorem outRdMask (odd : Bool) (w : Width) (v : Word) : Statement (.outRdMask odd w v) :=
  fun _ => access_ok _ _ _ (port_lt ..)

theorem inRdMask (odd : Bool) (w : Width) : Statement (.inRdMask odd w) := fun _ => access_ok _ _ _ (port_lt ..)

theorem outColorCmp (odd : Bool) (w : Width) (v : Word) : Statement (.outColorCmp odd w v) :=
  fun _ => access_ok _ _ _ (port_lt ..)

theorem inColorCmp (odd : Bool) (w : Width) : Statement (.inColorCmp odd w) := fun _ => access_ok _ _ _ (port_lt ..)

theorem outBkgdMix (odd : Bool) (w : Width) (v : Word) : Statement (.outBkgdMix odd w v) :=
  fun _ => access_ok _ _ _ (port_lt ..)

theorem inBkgdMix (odd : Bool) (w : Width) : Statement (.inBkgdMix odd w) := fun _ => access_ok _ _ _ (port_lt ..)

theorem outFrgdMix (odd : Bool) (w : Width) (v : Word) : Statement (.outFrgdMix odd w v) :=
  fun _ => access_ok _ _ _ (port_lt ..)

theorem inFrgdMix (odd : Bool) (w : Width) : Statement (.inFrgdMix odd w) := fun _ => access_ok _ _ _ (port_lt ..)

theorem outMultifunc (odd : Bool) (w : Width) (v : Word) : Statement (.outMultifunc odd w v) :=
  fun _ => access_ok _ _ _ (port_lt ..)

theorem inMultifunc (odd : Bool) (w : Width) : Statement (.inMultifunc odd w) := fun _ => access_ok _ _ _ (port_lt ..)

theorem lane_lt (lane : BitVec 2) : pixPortLo + lane.toNat < spaceSize .io := by
  have := lane.isLt
  simp only [pixPortLo, spaceSize]
  omega

theorem outPixTrans (lane : BitVec 2) (w : Width) (v : Word) : Statement (.outPixTrans lane w v) :=
  fun _ => access_ok _ _ _ (lane_lt lane)

theorem inPixTrans (lane : BitVec 2) (w : Width) : Statement (.inPixTrans lane w) :=
  fun _ => access_ok _ _ _ (lane_lt lane)

theorem outCurY2 (odd : Bool) (w : Width) (v : Word) : Statement (.outCurY2 odd w v) :=
  fun _ => access_ok _ _ _ (port_lt ..)

theorem inCurY2 (odd : Bool) (w : Width) : Statement (.inCurY2 odd w) := fun _ => access_ok _ _ _ (port_lt ..)

theorem outCurX2 (odd : Bool) (w : Width) (v : Word) : Statement (.outCurX2 odd w v) :=
  fun _ => access_ok _ _ _ (port_lt ..)

theorem inCurX2 (odd : Bool) (w : Width) : Statement (.inCurX2 odd w) := fun _ => access_ok _ _ _ (port_lt ..)

theorem outDesty2 (odd : Bool) (w : Width) (v : Word) : Statement (.outDesty2 odd w v) :=
  fun _ => access_ok _ _ _ (port_lt ..)

theorem inDesty2 (odd : Bool) (w : Width) : Statement (.inDesty2 odd w) := fun _ => access_ok _ _ _ (port_lt ..)

theorem outDestx2 (odd : Bool) (w : Width) (v : Word) : Statement (.outDestx2 odd w v) :=
  fun _ => access_ok _ _ _ (port_lt ..)

theorem inDestx2 (odd : Bool) (w : Width) : Statement (.inDestx2 odd w) := fun _ => access_ok _ _ _ (port_lt ..)

theorem ioUnmapped (port : BitVec 16) (act : BusAction) : Statement (.ioUnmapped port act) :=
  fun _ => access_ok _ _ _ (by have := port.isLt; simpa [spaceSize] using this)

theorem mmioPixTrans (win : Window) (off : BitVec 17) (act : BusAction) : Statement (.mmioPixTrans win off act) := by
  intro h
  simp only [Instr.wf, Bool.and_eq_true, decide_eq_true_eq] at h
  exact access_ok _ _ _ (window_lt win _ (by omega))

theorem mmioReg (win : Window) (off : BitVec 17) (act : BusAction) : Statement (.mmioReg win off act) := by
  intro h
  simp only [Instr.wf, Bool.and_eq_true, decide_eq_true_eq] at h
  exact access_ok _ _ _ (window_lt win _ (by omega))

theorem mw32PkBkgdColor (win : Window) (v : Word) : Statement (.mw32PkBkgdColor win v) :=
  fun _ => access_ok _ _ _ (packed_lt ..)

theorem mr32PkBkgdColor (win : Window) : Statement (.mr32PkBkgdColor win) := fun _ => access_ok _ _ _ (packed_lt ..)

theorem mw32PkFrgdColor (win : Window) (v : Word) : Statement (.mw32PkFrgdColor win v) :=
  fun _ => access_ok _ _ _ (packed_lt ..)

theorem mr32PkFrgdColor (win : Window) : Statement (.mr32PkFrgdColor win) := fun _ => access_ok _ _ _ (packed_lt ..)

theorem mw32PkWrtMask (win : Window) (v : Word) : Statement (.mw32PkWrtMask win v) :=
  fun _ => access_ok _ _ _ (packed_lt ..)

theorem mr32PkWrtMask (win : Window) : Statement (.mr32PkWrtMask win) := fun _ => access_ok _ _ _ (packed_lt ..)

theorem mw32PkRdMask (win : Window) (v : Word) : Statement (.mw32PkRdMask win v) :=
  fun _ => access_ok _ _ _ (packed_lt ..)

theorem mr32PkRdMask (win : Window) : Statement (.mr32PkRdMask win) := fun _ => access_ok _ _ _ (packed_lt ..)

theorem mw32PkColorCmp (win : Window) (v : Word) : Statement (.mw32PkColorCmp win v) :=
  fun _ => access_ok _ _ _ (packed_lt ..)

theorem mr32PkColorCmp (win : Window) : Statement (.mr32PkColorCmp win) := fun _ => access_ok _ _ _ (packed_lt ..)

theorem mw32PkMix (win : Window) (v : Word) : Statement (.mw32PkMix win v) :=
  fun _ => access_ok _ _ _ (packed_lt ..)

theorem mr32PkMix (win : Window) : Statement (.mr32PkMix win) := fun _ => access_ok _ _ _ (packed_lt ..)

theorem mw32PkScissorsTl (win : Window) (v : Word) : Statement (.mw32PkScissorsTl win v) :=
  fun _ => access_ok _ _ _ (packed_lt ..)

theorem mr32PkScissorsTl (win : Window) : Statement (.mr32PkScissorsTl win) := fun _ => access_ok _ _ _ (packed_lt ..)

theorem mw32PkScissorsBr (win : Window) (v : Word) : Statement (.mw32PkScissorsBr win v) :=
  fun _ => access_ok _ _ _ (packed_lt ..)

theorem mr32PkScissorsBr (win : Window) : Statement (.mr32PkScissorsBr win) := fun _ => access_ok _ _ _ (packed_lt ..)

theorem mw32PkPixCntlMisc2 (win : Window) (v : Word) : Statement (.mw32PkPixCntlMisc2 win v) :=
  fun _ => access_ok _ _ _ (packed_lt ..)

theorem mr32PkPixCntlMisc2 (win : Window) : Statement (.mr32PkPixCntlMisc2 win) := fun _ => access_ok _ _ _ (packed_lt ..)

theorem mw32PkMultMiscRdsel (win : Window) (v : Word) : Statement (.mw32PkMultMiscRdsel win v) :=
  fun _ => access_ok _ _ _ (packed_lt ..)

theorem mr32PkMultMiscRdsel (win : Window) : Statement (.mr32PkMultMiscRdsel win) := fun _ => access_ok _ _ _ (packed_lt ..)

theorem mmioUnmapped (off : BitVec 17) (act : BusAction) : Statement (.mmioUnmapped off act) :=
  fun _ => access_ok _ _ _ (by have := off.isLt; simpa [spaceSize] using this)

theorem mmioStreams (off : BitVec 17) (act : BusAction) : Statement (.mmioStreams off act) :=
  fun _ => access_ok _ _ _ (by have := off.isLt; simpa [spaceSize] using this)

end Sys2Proof.Laws.Canonical
end

