-- ==== Sys2Proof/Tests/Slice0.lean ====
section
/-!
SUPPORT. The model's own tests: well-formedness, decoding of words written out from the spec's encodings, single
steps on small states, and a witness for the hypotheses of each obligation. Expected results are those of
spec/95_test_vectors.md (the vector is named) or of the rule named.
-/
namespace Sys2Proof.Tests
open Sys2Proof.Machine

/-! ### Helpers -/

/-- The eight bytes of a record: control byte, 24-bit address, 32-bit value, little-endian (entry 1). -/
def recordOf (c a v : Nat) : List Byte :=
  [.ofNat 8 c, .ofNat 8 a, .ofNat 8 (a / 2 ^ 8), .ofNat 8 (a / 2 ^ 16),
   .ofNat 8 v, .ofNat 8 (v / 2 ^ 8), .ofNat 8 (v / 2 ^ 16), .ofNat 8 (v / 2 ^ 24)]

/-- What a record is read as. -/
def readsAs (c a v : Nat) : Option Instr :=
  match decode (recordOf c a v) with
  | .ok (i, _) => some i
  | .error _ => none

/-- Why a record is rejected. -/
def rejectedFor (c a v : Nat) : Option DecodeError :=
  match decode (recordOf c a v) with
  | .ok _ => none
  | .error e => some e

/-- A step answers a next state in which `f` holds. -/
def answers (r : Result) (f : State → Bool) : Bool :=
  match r with
  | .next t => f t
  | .fault _ => false
  | .refused _ => false

/-- The state after the set-up of R455, with foreground colour 0x55 copied by the foreground mix; further registers
and VRAM as given. -/
def drawing (f : Regs → Regs) (mem : Memory) : State :=
  { State.reset with
    regs := f { Regs.reset with
      wrtMask := 0xFFFF, frgdMix := 0x27, frgdColor := 0x55
      multifunc := ((Vector.replicate 16 0).set 3 0xFFF).set 4 0xFFF }
    vram := mem }

/-- A 3x2 monochrome rectangle waiting for CPU data (vector F-4). -/
def suspended : State :=
  let s := drawing (fun r => { r.setMf 0xA 0x080 with
    frgdColor := 0x11, bkgdColor := 0x22, bkgdMix := 0x07, cmd := 0x41B1 }) []
  { s with eng := { s.eng with active := true, cls := 2, cmd := 0x41B1, w := 2, sx := 2, sy := 1 } }

/-- A 2x1 read-back at 8 bpp of the bytes 0x34, 0x12, at its start. -/
def readingState : State :=
  let s := drawing (fun r => { r with cmd := 0x41B0, majAxisPcnt := 1 }) [(0, 0x34), (1, 0x12)]
  { s with eng := { s.eng with active := true, cls := 2, cmd := 0x41B0, w := 1, sx := 1, dataAvailable := true } }

/-- FIFO mode, the queue enabled and holding `n` entries. -/
def queueState (n : Nat) : State :=
  { State.reset with
    inputs := { Inputs.session with fifoMode := true }
    regs := { Regs.reset with advfunc := 1 }
    fifo := { Fifo.reset with
      ring := if n = 0 then [] else [(0, ⟨0x050086E8, 5, false⟩)], writeIdx := BitVec.ofNat 32 n } }

/-- The reset state with the session changed. -/
def session (f : Config → Config) : State := { State.reset with cfg := f State.reset.cfg }

/-! ### Well-formedness: an ill-formed term for each check -/

theorem test_wf_value_too_wide :
    [Instr.outCurX false .w8 0x100, .outCurX false .w16 0x10000, .outPixTrans 0 .w8 0x1FF,
     .ioUnmapped 0 (.write .w16 0x10000), .mmioPixTrans .legacy 0 (.write .w8 0x100),
     .mmioReg .legacy 0x8000 (.write .w8 0x100), .mmioUnmapped 0x10000 (.write .w8 0x100),
     .mmioStreams 0x18000 (.write .w8 0x100)].all (fun i => !i.wf) = true := by decide

theorem test_wf_value_widest :
    [Instr.outCurX false .w8 0xFF, .outCurX false .w16 0xFFFF, .outCurX false .w32 0xFFFFFFFF].all Instr.wf = true := by
  decide

theorem test_wf_command_fields :
    let o : CmdOpts := ⟨false, false, 0, false, false, false, false, false, false, false, false, false⟩
    [Instr.line .io { o with radial := true }, .lineRadial .io o, .rect .io { o with pcdata := true },
     .rectCpu .io { o with wrtdata := true }, .rectCpu .io { o with pcdata := true }, .rectRead .io o,
     .rectRead .io { o with pcdata := true, wrtdata := true }, .polySolid .io { o with pat8 := true },
     .polyPat .io o].all (fun i => !i.wf) = true := by decide

theorem test_wf_address_ranges :
    [Instr.ioUnmapped 0x86E9 (.read .w8), .ioUnmapped 0xE2EA (.read .w8), .mmioPixTrans .legacy 0x8000 (.read .w8),
     .mmioReg .legacy 0x7FFF (.read .w8), .mmioReg .linear 0x10000 (.read .w8),
     .mmioReg .linear 0x8138 (.read .w32), .mmioUnmapped 0xFFFF (.read .w8), .mmioUnmapped 0x18000 (.read .w8),
     .mmioStreams 0x17FFF (.read .w8)].all (fun i => !i.wf) = true := by decide

/-! ### Decoding -/

/-- `CMD` words of R120 and R121, class bits 15:13, written at 0x9AE8. -/
theorem test_decode_commands_a :
    [readsAs 0x21 0x9AE8 0x1002,
     readsAs 0x21 0x9AE8 0x2031,
     readsAs 0x29 0x9AE8 0x20D9,
     readsAs 0x21 0x9AE8 0x40B1,
     readsAs 0x31 0x9AE8 0x43B1,
     readsAs 0x21 0x9AE8 0x41B0] =
    [some (.nop .io ⟨true, false, 0, false, false, false, false, false, false, false, true, false⟩),
     some (.line .io ⟨false, false, 0, false, false, false, true, true, false, false, false, true⟩),
     some (.lineRadial .legacyMmio ⟨false, false, 0, false, true, true, false, true, true, false, false, true⟩),
     some (.rect .io ⟨false, false, 0, false, true, false, true, true, false, false, false, true⟩),
     some (.rectCpu .newMmio ⟨false, false, 1, true, true, false, true, true, false, false, false, true⟩),
     some (.rectRead .io ⟨false, false, 0, true, true, false, true, true, false, false, false, false⟩)] := by decide

/-- `CMD` words of R120 and R121, class bits 15:13, written at 0x9AE8. -/
theorem test_decode_commands_b :
    [readsAs 0x21 0x9AE8 0x6011,
     readsAs 0x21 0x9AE8 0x6811,
     readsAs 0x29 0x9AE8 0x88B1,
     readsAs 0x21 0x9AE8 0xA015,
     readsAs 0x31 0x9AE8 0xC091,
     readsAs 0x21 0x9AE8 0xE0B1] =
    [some (.polySolid .io ⟨false, false, 0, false, false, false, false, true, false, false, false, true⟩),
     some (.polyPat .io ⟨false, true, 0, false, false, false, false, true, false, false, false, true⟩),
     some (.ropblt .legacyMmio ⟨false, true, 0, false, true, false, true, true, false, false, false, true⟩),
     some (.polyline .io ⟨false, false, 0, false, false, false, false, true, false, true, false, true⟩),
     some (.bitblt .newMmio ⟨false, false, 0, false, true, false, false, true, false, false, false, true⟩),
     some (.patfill .io ⟨false, false, 0, false, true, false, true, true, false, false, false, true⟩)] := by decide

/-- Stroke bytes of R126: direction 7:5, draw bit 4, length 3:0. -/
theorem test_decode_strokes :
    [readsAs 0x40 0x9EE8 0x33,
     readsAs 0x50 0x9EE9 0xEF] =
    [some (.ssv .io false 1 true 3),
     some (.ssv .newMmio true 7 false 15)] := by decide

/-- Port writes of R110. -/
theorem test_decode_port_writes_a :
    [readsAs 0x00 0x42E8 0xA5,
     readsAs 0x01 0x4AE8 0xC123,
     readsAs 0x02 0x82E9 0x89ABCDEF,
     readsAs 0x00 0x86E9 0xA5,
     readsAs 0x01 0x8AE8 0xC123,
     readsAs 0x02 0x8EE8 0x89ABCDEF,
     readsAs 0x00 0x92E9 0xA5,
     readsAs 0x01 0x96E9 0xC123] =
    [some (.outSubsysCntl false .w8 0xA5),
     some (.outAdvfuncCntl false .w16 0xC123),
     some (.outCurY true .w32 0x89ABCDEF),
     some (.outCurX true .w8 0xA5),
     some (.outDestyAxstp false .w16 0xC123),
     some (.outDestxDiastp false .w32 0x89ABCDEF),
     some (.outErrTerm true .w8 0xA5),
     some (.outMajAxisPcnt true .w16 0xC123)] := by decide

/-- Port reads of R110. -/
theorem test_decode_port_reads_a :
    [readsAs 0x05 0x42E9 0x0,
     readsAs 0x06 0x4AE9 0x0,
     readsAs 0x04 0x82E8 0x0,
     readsAs 0x05 0x86E8 0x0,
     readsAs 0x06 0x8AE9 0x0,
     readsAs 0x04 0x8EE9 0x0,
     readsAs 0x05 0x92E8 0x0,
     readsAs 0x06 0x96E8 0x0] =
    [some (.inSubsysStat true .w16),
     some (.inAdvfuncCntl true .w32),
     some (.inCurY false .w8),
     some (.inCurX false .w16),
     some (.inDestyAxstp true .w32),
     some (.inDestxDiastp true .w8),
     some (.inErrTerm false .w16),
     some (.inMajAxisPcnt false .w32)] := by decide

/-- Port writes of R110. -/
theorem test_decode_port_writes_b :
    [readsAs 0x00 0x9AE8 0xA5,
     readsAs 0x01 0x9EE8 0xC123,
     readsAs 0x02 0xA2E9 0x89ABCDEF,
     readsAs 0x00 0xA6E9 0xA5,
     readsAs 0x01 0xAAE8 0xC123,
     readsAs 0x02 0xAEE8 0x89ABCDEF,
     readsAs 0x00 0xB2E9 0xA5] =
    [some (.outCmd false .w8 0xA5),
     some (.outShortStroke false .w16 0xC123),
     some (.outBkgdColor true .w32 0x89ABCDEF),
     some (.outFrgdColor true .w8 0xA5),
     some (.outWrtMask false .w16 0xC123),
     some (.outRdMask false .w32 0x89ABCDEF),
     some (.outColorCmp true .w8 0xA5)] := by decide

/-- Port reads of R110. -/
theorem test_decode_port_reads_b :
    [readsAs 0x05 0x9AE9 0x0,
     readsAs 0x06 0x9EE9 0x0,
     readsAs 0x04 0xA2E8 0x0,
     readsAs 0x05 0xA6E8 0x0,
     readsAs 0x06 0xAAE9 0x0,
     readsAs 0x04 0xAEE9 0x0,
     readsAs 0x05 0xB2E8 0x0] =
    [some (.inGpStat true .w16),
     some (.inShortStroke true .w32),
     some (.inBkgdColor false .w8),
     some (.inFrgdColor false .w16),
     some (.inWrtMask true .w32),
     some (.inRdMask true .w8),
     some (.inColorCmp false .w16)] := by decide

/-- Port writes of R110. -/
theorem test_decode_port_writes_c :
    [readsAs 0x00 0xB6E8 0xA5,
     readsAs 0x01 0xBAE8 0xC123,
     readsAs 0x02 0xBEE9 0x89ABCDEF,
     readsAs 0x00 0x82EB 0xA5,
     readsAs 0x01 0x86EA 0xC123,
     readsAs 0x02 0x8AEA 0x89ABCDEF,
     readsAs 0x00 0x8EEB 0xA5] =
    [some (.outBkgdMix false .w8 0xA5),
     some (.outFrgdMix false .w16 0xC123),
     some (.outMultifunc true .w32 0x89ABCDEF),
     some (.outCurY2 true .w8 0xA5),
     some (.outCurX2 false .w16 0xC123),
     some (.outDesty2 false .w32 0x89ABCDEF),
     some (.outDestx2 true .w8 0xA5)] := by decide

/-- Port reads of R110. -/
theorem test_decode_port_reads_c :
    [readsAs 0x05 0xB6E9 0x0,
     readsAs 0x06 0xBAE9 0x0,
     readsAs 0x04 0xBEE8 0x0,
     readsAs 0x05 0x82EA 0x0,
     readsAs 0x06 0x86EB 0x0,
     readsAs 0x04 0x8AEB 0x0,
     readsAs 0x05 0x8EEA 0x0] =
    [some (.inBkgdMix true .w16),
     some (.inFrgdMix true .w32),
     some (.inMultifunc false .w8),
     some (.inCurY2 false .w16),
     some (.inCurX2 true .w32),
     some (.inDesty2 true .w8),
     some (.inDestx2 false .w16)] := by decide

/-- The pixel-transfer port, an unmapped port and the MMIO ranges of R115 and R116, at their ends. -/
theorem test_decode_ranges :
    [readsAs 0x02 0xE2E8 0x12345678,
     readsAs 0x04 0xE2EB 0x0,
     readsAs 0x05 0x1234 0x0,
     readsAs 0x09 0x7FFF 0xABCD,
     readsAs 0x14 0x0000 0x0,
     readsAs 0x09 0x86E8 0x5,
     readsAs 0x11 0x8138 0x5,
     readsAs 0x16 0xFFFF 0x0,
     readsAs 0x16 0x10000 0x0,
     readsAs 0x10 0x17FFF 0x1,
     readsAs 0x12 0x18000 0x1,
     readsAs 0x14 0x1FFFF 0x0] =
    [some (.outPixTrans 0 .w32 0x12345678),
     some (.inPixTrans 3 .w8),
     some (.ioUnmapped 0x1234 (.read .w16)),
     some (.mmioPixTrans .legacy 0x7FFF (.write .w16 0xABCD)),
     some (.mmioPixTrans .linear 0 (.read .w8)),
     some (.mmioReg .legacy 0x86E8 (.write .w16 5)),
     some (.mmioReg .linear 0x8138 (.write .w16 5)),
     some (.mmioReg .linear 0xFFFF (.read .w32)),
     some (.mmioUnmapped 0x10000 (.read .w32)),
     some (.mmioUnmapped 0x17FFF (.write .w8 1)),
     some (.mmioStreams 0x18000 (.write .w32 1)),
     some (.mmioStreams 0x1FFFF (.read .w8))] := by decide

/-- 32-bit writes at the offsets of R117. -/
theorem test_decode_packed_writes :
    [readsAs 0x0A 0x8120 0x1000,
     readsAs 0x12 0x8124 0x1001,
     readsAs 0x0A 0x8128 0x1002,
     readsAs 0x12 0x812C 0x1003,
     readsAs 0x0A 0x8130 0x1004,
     readsAs 0x12 0x8134 0x1005,
     readsAs 0x0A 0x8138 0x1006,
     readsAs 0x12 0x813C 0x1007,
     readsAs 0x0A 0x8140 0x1008,
     readsAs 0x12 0x8144 0x1009] =
    [some (.mw32PkBkgdColor .legacy 0x1000),
     some (.mw32PkFrgdColor .linear 0x1001),
     some (.mw32PkWrtMask .legacy 0x1002),
     some (.mw32PkRdMask .linear 0x1003),
     some (.mw32PkColorCmp .legacy 0x1004),
     some (.mw32PkMix .linear 0x1005),
     some (.mw32PkScissorsTl .legacy 0x1006),
     some (.mw32PkScissorsBr .linear 0x1007),
     some (.mw32PkPixCntlMisc2 .legacy 0x1008),
     some (.mw32PkMultMiscRdsel .linear 0x1009)] := by decide

/-- 32-bit reads at the offsets of R117. -/
theorem test_decode_packed_reads :
    [readsAs 0x16 0x8120 0x0,
     readsAs 0x0E 0x8124 0x0,
     readsAs 0x16 0x8128 0x0,
     readsAs 0x0E 0x812C 0x0,
     readsAs 0x16 0x8130 0x0,
     readsAs 0x0E 0x8134 0x0,
     readsAs 0x16 0x8138 0x0,
     readsAs 0x0E 0x813C 0x0,
     readsAs 0x16 0x8140 0x0,
     readsAs 0x0E 0x8144 0x0] =
    [some (.mr32PkBkgdColor .linear),
     some (.mr32PkFrgdColor .legacy),
     some (.mr32PkWrtMask .linear),
     some (.mr32PkRdMask .legacy),
     some (.mr32PkColorCmp .linear),
     some (.mr32PkMix .legacy),
     some (.mr32PkScissorsTl .linear),
     some (.mr32PkScissorsBr .legacy),
     some (.mr32PkPixCntlMisc2 .linear),
     some (.mr32PkMultMiscRdsel .legacy)] := by decide

/-- Every rejection of the decoder, by name. -/
theorem test_decode_rejections :
    [rejectedFor 0x80 0 0, rejectedFor 0x03 0 0, rejectedFor 0x18 0 0, rejectedFor 0x60 0 0, rejectedFor 0x00 0x10000 0,
     rejectedFor 0x00 0 0x100, rejectedFor 0x04 0 1, rejectedFor 0x21 0x9AE9 0, rejectedFor 0x40 0x9EEA 0] =
    [some .reservedControl, some .reservedWidth, some .reservedSpace, some .reservedFormat, some .addressOutOfRange,
     some .valueTooWide, some .valueOnRead, some .badCommandRecord, some .badStrokeRecord] := by decide

theorem test_decode_truncated : decode [0x01, 0xE8, 0x86, 0x00, 0x34, 0x12, 0x00] = .error .truncated := by decide

/-- Rows of spec/opcode_table.json by their bits: RECT, SSV, the port of CUR_X, PK_SCISSORS_TL, MMIO_STREAMS. -/
theorem test_table_words :
    [decodeTableWord 16 0x40B1, decodeTableWord 8 0x33, decodeTableWord 16 0x86E8, decodeTableWord 24 0x8138,
     decodeTableWord 24 0x18000] =
    [some (.rect .io ⟨false, false, 0, false, true, false, true, true, false, false, false, true⟩),
     some (.ssv .io false 1 true 3), some (.outCurX false .w8 0), some (.mw32PkScissorsTl .legacy 0),
     some (.mmioStreams 0x18000 (.write .w8 0))] := by decide

/-! ### Register writes and reads -/

/-- Vectors W-2 and W-4: a 16-bit write is sign-extended from bit 13, bits 15:14 ignored. -/
theorem test_outCurX_word :
    answers (exec (.outCurX false .w16 0x2000) State.reset) (fun t => t.regs.curX == 0xFFFFE000) = true ∧
    answers (exec (.outCurX false .w16 0xC123) State.reset) (fun t => t.regs.curX == 0x123) = true := by decide

/-- Vector W-5: the high byte completes the field. -/
theorem test_outCurX_high :
    answers (exec (.outCurX true .w8 0x21) (drawing (fun r => { r with curX := 0x34 }) []))
      (fun t => t.regs.curX == 0xFFFFE134) = true := by decide

/-- Vector W-6. -/
theorem test_outErrTerm :
    answers (exec (.outErrTerm false .w16 0x3FF6) State.reset) (fun t => t.regs.errTerm.toInt == -10) = true := by decide

/-- Vector W-7. -/
theorem test_outMajAxisPcnt :
    answers (exec (.outMajAxisPcnt false .w16 0xF00A) State.reset) (fun t => t.regs.majAxisPcnt == 0x00A) = true := by
  decide

/-- Vectors W-8 and W-9. -/
theorem test_outMultifunc :
    answers (exec (.outMultifunc false .w16 0x4005) State.reset) (fun t => t.regs.mf 4 == 5) = true ∧
    answers (exec (.outMultifunc true .w8 0x12) (drawing (fun r => { r with mfLatch := 0x34 }) []))
      (fun t => t.regs.mf 1 == 0x234) = true := by decide

/-- Vectors W-10 and W-11: the pointer advances, and wraps. -/
theorem test_inMultifunc :
    answers (exec (.inMultifunc false .w16) (drawing (fun r => (r.setMf 0xF 2).setMf 2 7) []))
      (fun t => t.host.history == [.readReturned .w16 7] && t.regs.mf 0xF == 3) = true ∧
    answers (exec (.inMultifunc false .w16) (drawing (fun r => r.setMf 0xF 0xF) []))
      (fun t => t.host.history == [.readReturned .w16 0xF] && t.regs.mf 0xF == 0) = true := by decide

/-- Vector W-12: the upper half. -/
theorem test_outFrgdColor_upper :
    answers (exec (.outFrgdColor false .w16 0x1234) (drawing (fun r => r.setMf 0xE 0x010) []))
      (fun t => t.regs.frgdColor == 0x12340055) = true := by decide

/-- Vectors W-13 and W-14. -/
theorem test_ioUnmapped :
    answers (exec (.ioUnmapped 0x1234 (.read .w16)) State.reset)
      (fun t => t.host.history == [.readReturned .w16 0xFFFF]) = true ∧
    answers (exec (.ioUnmapped 0x1234 (.write .w16 5)) State.reset) (fun t => t == State.reset) = true := by decide

/-- Vector W-15. -/
theorem test_outSubsysCntl :
    answers (exec (.outSubsysCntl false .w16 0x0A0F) (drawing (fun r => { r with subsysStat := 0xA }) []))
      (fun t => t.regs.subsysStat == 0 && t.regs.subsysEn == 0xA && !t.irq) = true := by decide

/-- Vector W-16. -/
theorem test_packedScissors :
    answers (exec (.mw32PkScissorsTl .legacy 0x00020000) State.reset)
      (fun t => t.regs.mf 1 == 0 && t.regs.mf 2 == 2) = true ∧
    answers (exec (.mr32PkScissorsTl .legacy) (drawing (fun r => r.setMf 2 2) []))
      (fun t => t.host.history == [.readReturned .w32 0x00020000]) = true := by decide

/-- Vectors Q-3 and Q-5: the thermometer and the busy bit. -/
theorem test_gpStat :
    (queueState 65525).gpStat = 0x0201 ∧ (queueState 65532).gpStat = 0x02FF ∧ (queueState 65524).gpStat = 0x0200 := by
  decide

/-- Vector Q-7: the entry of a queued write. -/
theorem test_enqueue :
    answers (exec (.outCurX false .w16 5) (queueState 0))
      (fun t => t.fifo.queue == [⟨0x050086E8, 5, false⟩] && t.regs.curX == 0) = true := by decide

/-- R194: the engine applies the entry and raises `FIFO_EMPTY` when it was the last. -/
theorem test_drain :
    answers (step (queueState 1)) (fun t => t.regs.curX == 5 && t.regs.subsysStat == 8 && t.fifo.entries == 0) = true := by
  decide

/-! ### Mix and ROP3 -/

/-- The mix table of section 2.2, `S = 0x0F`, `D = 0x3C`. -/
theorem test_mix_table :
    (List.range 16).map (fun f => mixFn 0xFF (BitVec.ofNat 4 f) 0x0F 0x3C) =
      [0xC3, 0x00, 0xFF, 0x3C, 0xF0, 0x33, 0xCC, 0x0F, 0xF3, 0xFC, 0xCF, 0x3F, 0x0C, 0x03, 0x30, 0xC0] := by decide

/-- Vector S-1: mixed bits return the code; further mixed cases. -/
theorem test_rop3 :
    [0x00, 0x01, 0x5A, 0x88, 0xCC, 0xF0, 0xFF].all (fun c =>
      rop3 0xFF c 0xF0 0xCC 0xAA == c.setWidth 32) = true ∧
    rop3 0xFF 0x88 0x00 0x3C 0x0F = 0x0C ∧ rop3 0xFF 0xFB 0x00 0xF0 0x00 = 0x0F := by decide

/-! ### Commands -/

/-- Vector S-6: the line of S-4, clipped to x from 2 to 5. -/
theorem test_line_clipped :
    answers (exec (cmdInstr .io 0x2031) (drawing (fun r =>
        { (r.setMf 2 2).setMf 4 5 with
          majAxisPcnt := 10, errTerm := 0xFFFFFFF6, destxDiastp := 0xFFFFFFEC }) []))
      (fun t => t.vram == [(2, 0x55), (3, 0x55), (4, 0x55), (5, 0x55)] && t.regs.curX == 10 &&
        t.regs.errTerm == 0xFFFFFFF6) = true := by decide

/-- Vector L-3: y-major, to the left. -/
theorem test_line_ymajor :
    answers (exec (cmdInstr .io 0x20D1) (drawing (fun r =>
        { r with
          curX := 5, majAxisPcnt := 4, errTerm := 0xFFFFFFFF, destyAxstp := 4, destxDiastp := 0xFFFFFFFC }) []))
      (fun t => t.vram == [(5, 0x55), (21, 0x55), (36, 0x55), (52, 0x55), (67, 0x55)] && t.regs.curX == 3 &&
        t.regs.curY == 4 && t.regs.errTerm == 0xFFFFFFFF) = true := by decide

/-- Vector L-10: radial, 135 degrees. -/
theorem test_lineRadial :
    answers (exec (cmdInstr .io 0x2079) (drawing (fun r => { r with curX := 2, curY := 2, majAxisPcnt := 2 }) []))
      (fun t => t.vram == [(0, 0x55), (17, 0x55), (34, 0x55)] && t.regs.curX == 0 && t.regs.curY == 0) = true := by
  decide

/-- Vector L-7. -/
theorem test_polyline :
    answers (exec (cmdInstr .io 0xA011) (drawing (fun r => { r with destxDiastp := 4, destyAxstp := 2 }) []))
      (fun t => t.vram == [(0, 0x55), (1, 0x55), (18, 0x55), (19, 0x55), (36, 0x55)] && t.regs.curX == 4 &&
        t.regs.curY == 2) = true := by decide

/-- Vector L-11, and L-13: a stroke without its draw bit writes nothing. -/
theorem test_ssv :
    answers (exec (.ssv .io false 1 true 3) (drawing (fun r => { r with curX := 10, curY := 10 }) []))
      (fun t => t.vram == [(125, 0x55), (140, 0x55), (155, 0x55), (170, 0x55)] && t.regs.curX == 13) = true ∧
    answers (exec (.ssv .io false 0 false 3) (drawing id []))
      (fun t => t.vram == [] && t.regs.curX == 3) = true := by decide

/-- Vector F-2: to the left and up. -/
theorem test_rect_backwards :
    answers (exec (cmdInstr .io 0x4011) (drawing (fun r =>
        { r.setMf 0 1 with curX := 5, curY := 5, majAxisPcnt := 1 }) []))
      (fun t => t.vram == [(68, 0x55), (69, 0x55), (84, 0x55), (85, 0x55)] && t.regs.curY == 3 &&
        t.regs.curX == 5) = true := by decide

/-- Vector G-4: mix select 3 compares with RD_MASK. -/
theorem test_rect_mixsel3 :
    answers (exec (cmdInstr .io 0x40B1) (drawing (fun r =>
        { r.setMf 0xA 0x0C0 with
          rdMask := 0x80, bkgdMix := 7, frgdColor := 0x11, bkgdColor := 0x22, majAxisPcnt := 3 })
        [(0, 0x80), (1, 0x7F), (2, 0xFF)]))
      (fun t => t.vram == [(0, 0x11), (1, 0x22), (2, 0x11), (3, 0x22)]) = true := by decide

/-- Vector F-4: the second byte ends the rectangle, the first leaves it waiting. -/
theorem test_rectCpu_data :
    answers (exec (.outPixTrans 0 .w8 0xA0) suspended)
      (fun t => t.vram == [(0, 0x11), (1, 0x22), (2, 0x11)] && t.eng.active && t.gpStat == 0x0200) = true ∧
    answers (exec (.outPixTrans 0 .w16 0x40A0) suspended)
      (fun t => t.vram == [(0, 0x11), (1, 0x22), (2, 0x11), (16, 0x22), (17, 0x11), (18, 0x22)] && !t.eng.active &&
        t.regs.curY == 2 && t.regs.subsysStat == 2) = true := by decide

/-- R86, R110: a 16-bit write at 0xE2EB is two byte writes, the second past the port. -/
theorem test_pixTrans_overrun :
    answers (exec (.outPixTrans 3 .w16 0x40A0) suspended)
      (fun t => t.vram == [(0, 0x11), (1, 0x22), (2, 0x11)] && t.eng.active &&
        t.host.pending == [⟨.io, 0xE2EC, .write .w8 0x40, 1, .w16, true, none⟩]) = true := by decide

/-- R102: a direct write that is held stays direct when FIFO mode comes on while it waits. -/
theorem test_held_write_stays_direct :
    let p : Part := ⟨.io, 0x86E8, .write .w16 7, 0, .w16, true, some ⟨.reg .curX .word, .drained⟩⟩
    let s : State := { queueState 1 with inputs := Inputs.session }
    answers (exec (.outCurX false .w16 7) s) (fun t => t.host.pending == [p]) = true ∧
    answers (step { queueState 0 with host := { HostSide.idle with pending := [p] } })
      (fun t => t.regs.curX == 7 && t.fifo.entries == 0) = true := by decide

/-- R451, R192: a write that was to be queued, whose hold a drain has lifted, is direct after a device reset. -/
theorem test_reset_decides_anew :
    let p (d : Option Decision) : Part := ⟨.io, 0x86E8, .write .w16 7, 0, .w16, true, d⟩
    let host (ts : List Turn) (d : Option Decision) : HostSide :=
      { HostSide.idle with sched := ts, pending := [p d] }
    answers (step { queueState 1 with host := host [.deviceReset] (some ⟨.reg .curX .word, .queued⟩) })
      (fun t => t.host.pending == [p none] && t.fifo.entries == 0) = true ∧
    answers (step { State.reset with inputs := (queueState 0).inputs, host := host [.host] none })
      (fun t => t.regs.curX == 7 && t.fifo.entries == 0) = true := by decide

/-- R113, D11: with MULT_MISC[4] set a colour register still reads back its low 16 bits. -/
theorem test_colour_read_low :
    answers (exec (.inFrgdColor false .w16) { State.reset with
        regs := { Regs.reset.setMf 0xE 0x10 with frgdColor := 0x12345678 } })
      (fun t => t.host.history == [.readReturned .w16 0x5678]) = true := by decide

/-- R402: a pixel write at a listed offset, queued while packed registers are off, is drained as a pixel write. -/
theorem test_drain_not_packed :
    let s : State := { queueState 0 with
      cfg := { (queueState 0).cfg with packedMap := [(0xE2E8, .frgdColor)] }
      inputs := { (queueState 0).inputs with packedMmioMode := false } }
    answers (thenNext (exec (.mmioReg .legacy 0xE2E8 (.write .w32 0x04030201)) s) drain)
      (fun t => t.regs.frgdColor == 0 && t.regs.pixTrans[0] == 4 && t.fifo.entries == 0) = true := by decide

/-- Program P5 in little: two bytes are read back, the second ends the operation. -/
theorem test_rectRead_data :
    answers (exec (.inPixTrans 0 .w16) readingState)
      (fun t => t.host.history == [.readReturned .w16 0x1234] && !t.eng.active && t.regs.curY == 1 &&
        t.regs.subsysStat == 2 && t.vram == readingState.vram) = true := by decide

/-- Vector F-9: the end row lies above the start row. -/
theorem test_polySolid_empty :
    answers (exec (cmdInstr .io 0x6011) (drawing (fun r => { r with curY := 3, curY2 := 3 }) []))
      (fun t => t.vram == [] && t.regs.curY == 3 && t.regs.curY2 == 3 && t.regs.subsysStat == 2) = true := by decide

/-- Vector F-10, its first two rows: edge 2 moves right. -/
theorem test_polySolid_rows :
    answers (exec (cmdInstr .io 0x6011) (drawing (fun r =>
        { r with curX2 := 1, destx2 := 2, destyAxstp := 1, desty2 := 1 }) []))
      (fun t => t.vram == [(0, 0x55), (1, 0x55), (16, 0x55), (17, 0x55), (18, 0x55)] && t.regs.curX2 == 3 &&
        t.regs.curY == 2) = true := by decide

/-- Rule R291: a pattern polygon of one row takes the tile at the origin. -/
theorem test_polyPat :
    answers (exec (cmdInstr .io 0x6811) (drawing (fun r =>
        { r with frgdMix := 0x67, curX := 9, curX2 := 10, destxDiastp := 9, destx2 := 10 }) [(1, 7), (2, 8)]))
      (fun t => t.vram == [(1, 7), (2, 8), (9, 7), (10, 8)]) = true := by decide

/-- Vector B-2: an overlapping copy to the right, from the right. -/
theorem test_bitblt_overlap :
    answers (exec (cmdInstr .io 0xC091) (drawing (fun r =>
        { r with frgdMix := 0x67, curX := 3, destxDiastp := 4, majAxisPcnt := 3 })
        [(0, 1), (1, 2), (2, 3), (3, 4), (4, 5)]))
      (fun t => t.vram == [(0, 1), (1, 1), (2, 2), (3, 3), (4, 4)] && t.regs.curX == 3) = true := by decide

/-- Vector G-8: a transparent blit. -/
theorem test_bitblt_transparent :
    answers (exec (cmdInstr .io 0xC0B1) (drawing (fun r =>
        { r.setMf 0xE 0x100 with frgdMix := 0x67, colorCmp := 0x33, destxDiastp := 4, majAxisPcnt := 1 })
        [(0, 0x33), (1, 0x44)]))
      (fun t => t.vram == [(0, 0x33), (1, 0x44), (5, 0x44)]) = true := by decide

/-- Vector B-5, the tile's row 3. -/
theorem test_patfill :
    answers (exec (cmdInstr .io 0xE0B1) (drawing (fun r =>
        { r with frgdMix := 0x67, destxDiastp := 10, destyAxstp := 3, majAxisPcnt := 1 }) [(50, 26), (51, 27)]))
      (fun t => t.vram == [(50, 26), (51, 27), (58, 26), (59, 27)]) = true := by decide

/-- Vectors B-6 and B-7: the pattern is the foreground colour, or the tile. -/
theorem test_ropblt :
    answers (exec (cmdInstr .io 0x80B1) (drawing (fun r =>
        { r with frgdMix := 0x65, bkgdMix := 0x6A, frgdColor := 0xFF }) [(0, 0x0F)]))
      (fun t => t.vram == [(0, 0xF0)]) = true ∧
    answers (exec (cmdInstr .io 0x88B1) (drawing (fun r =>
        { r with frgdMix := 0x6F, bkgdMix := 0x60, destxDiastp := 10, destyAxstp := 3 }) [(50, 26)]))
      (fun t => t.vram == [(50, 26), (58, 26)]) = true := by decide

/-- Vectors L-9 and B-8: a class the chip lacks. -/
theorem test_gated :
    answers (exec (cmdInstr .io 0xA011) (session fun c =>
        { c with cap := { c.cap with hasPolyline := false } }))
      (fun t => t.regs.subsysStat == 0 && t.regs.cmd == 0xA011 && !t.eng.active) = true := by decide

/-- Vector F-6: pixels wider than the bus unit. -/
theorem test_refused_packing :
    (match exec (cmdInstr .io 0x41B1) (session fun c => { c with depth := .bpp16 }) with
      | .refused r => some r
      | _ => none) = some .cpuPixelPacking := by decide

/-! ### Witnesses for the hypotheses of the obligations -/

/-- A canonical VRAM of two bytes. -/
def twoBytes : Memory := [(0, 0x34), (1, 0x12)]

/-- The reset state with a host program. -/
def programmed (bs : List Byte) (ts : List Turn) : State :=
  { State.reset with host := { HostSide.idle with program := bs, sched := ts } }

/-- EncodeDecode and DecodeEncode. -/
theorem test_hyps_decode :
    (Instr.outCurX false .w16 0xFFFF).wf = true ∧
    decode [0x01, 0xE8, 0x86, 0x00, 0x34, 0x12, 0x00, 0x00, 0xAA] = .ok (.outCurX false .w16 0x1234, [0xAA]) := by decide

/-- StepRunsDecoded, with no turn chosen and with the host's turn. -/
theorem test_hyps_step :
    (∀ ts, (programmed (encode (.inGpStat false .w16)) ts).host.pending = [] ∧
      decode (programmed (encode (.inGpStat false .w16)) ts).host.program = .ok (.inGpStat false .w16, []) ∧
      (programmed (encode (.inGpStat false .w16)) ts).host.sched = ts) := by
  intro ts
  exact ⟨rfl, by show decode (encode (.inGpStat false .w16)) = _; decide, rfl⟩

/-- A read of GP_STAT that waits for the drain. -/
def heldRead : Part := ⟨.io, 0x9AE8, .read .w16, 0, .w16, true, some ⟨.reg .cmd .word, .drained⟩⟩

/-- DeviceReset, with a held access. -/
theorem test_hyps_reset :
    ∃ (s : State) (p : Part), s.host.sched = [.deviceReset] ∧ s.host.pending = [p] ∧ s.waits p = true :=
  ⟨{ queueState 1 with host := { HostSide.idle with sched := [.deviceReset], pending := [heldRead] } }, heldRead,
    by decide⟩

/-- Every port is reached at reset, in the I/O space and the legacy window; with a window the chip has, in all. -/
theorem test_hyps_ports (r : PortReg) (odd : Bool) :
    portOpen State.reset .io r odd ∧ portOpen State.reset .legacyMmio r odd ∧
    portOpen (session fun c => { c with cap := { c.cap with hasNewMmio := true } }) .newMmio r odd ∧
    (0x8000 ≤ portAddr .curY false ∧ 0x8000 ≤ portAddr .destx2 true) :=
  ⟨⟨⟨rfl, rfl⟩, fun _ => rfl⟩, ⟨⟨rfl, rfl⟩, fun _ => rfl⟩, ⟨⟨rfl, rfl⟩, fun _ => rfl⟩, by decide⟩

/-- MmioRegisters: a second name of CUR_X, as a port and as a window offset. -/
theorem test_hyps_secondName :
    let s := session fun c => { c with aliases := [(0x8148, 0x86E8)] }
    findAlias 0x8148 s.cfg.aliases = some 0x86E8 ∧ findAlias 0x86E8 s.cfg.aliases = none ∧
    accessOf (.ioUnmapped 0x8148 (.read .w16)) = (.io, 0x8148, .read .w16) ∧
    accessOf (.inCurX false .w16) = (.io, 0x86E8, .read .w16) ∧
    accessOf (.mmioReg .legacy 0x8148 (.read .w8)) = (.legacyMmio, 0x8148, .read .w8) ∧
    accessOf (.mmioReg .legacy 0x86E8 (.read .w8)) = (.legacyMmio, 0x86E8, .read .w8) := by decide

/-- Register writes and reads are performed at once at reset, whatever the part. -/
theorem test_hyps_now :
    writesNow State.reset ∧ readsNow State.reset ∧ State.reset.fifo.drained = true ∧
    formOf false .w8 = some .lo ∧ formOf true .w8 = some .hi ∧ formOf false .w16 = some .word :=
  ⟨⟨rfl, rfl⟩, .inl rfl, rfl, rfl, rfl, rfl⟩

/-- ColourWrites and PackedWrites, on either side of byte doubling. -/
theorem test_hyps_byteDoubled :
    byteDoubled State.reset.cfg = false ∧
    byteDoubled (session fun c => { c with depth := .bpp16, cap := { c.cap with byteDoubling := true } }).cfg = true := by
  decide

/-- CmdWordIsCommand and ShortStrokeWrites. -/
theorem test_hyps_cmd :
    State.reset.eng.pixCount = 0 ∧ State.reset.eng.dataAvailable = false ∧ cmdClass State.reset.regs.cmd = 0 ∧
    cmdClass (drawing (fun r => { r with cmd := 0x2031 }) []).regs.cmd ≠ 0 := by decide

/-- PixTransStaging, PixTransReads and MmioPixels: every lane, no operation. -/
theorem test_hyps_pixTrans (lane : BitVec 2) :
    named State.reset .io (pixPortLo + lane.toNat) ∧ writesNow State.reset ∧ readsNow State.reset ∧
    State.reset.eng.active = false ∧ reaches State.reset.cfg State.reset.inputs Window.legacy.space = true ∧
    State.reset.queuing = false ∧ ((0x7FFF : BitVec 17).toNat < 0x8000) :=
  ⟨⟨rfl, rfl⟩, ⟨rfl, rfl⟩, .inl rfl, rfl, rfl, rfl, by decide⟩

/-- PixTransFeeds, with mix bits and with pixels, in the three classes: a row that ends and is not the last, a line that
goes on, and the last row of a BitBlt. -/
theorem test_hyps_feed :
    let t : State := { suspended with regs := suspended.regs.setMf 0xA 0 }
    let fed (c : Half) (x y : Int) : State := { suspended with
      regs := { suspended.regs with cmd := c }
      eng := { suspended.eng with cmd := c, cls := cmdClass c, sx := x, sy := y } }
    named suspended .io (pixPortLo + (0 : BitVec 2).toNat) ∧ writesNow suspended ∧ EngineOk suspended ∧
      suspended.eng.active = true ∧ cmdWrtdata suspended.eng.cmd = true ∧
      suspended.eng.pixCount.toNat + 1 = unitSize suspended.regs.cmd ∧ suspended.regs.mixSel = 2 ∧
    EngineOk t ∧ t.regs.mixSel ≠ 2 ∧ pixelBytes t.cfg.depth ≠ 3 ∧ pixelBytes t.cfg.depth ≤ unitSize t.regs.cmd ∧
    EngineOk (fed 0x2131 0 9) ∧ EngineOk (fed 0x2139 0 7) ∧ EngineOk (fed 0xC1B1 7 0) ∧
    dataCount (fedState suspended 0xA0) = 8 ∧ dataCount (fedState t 0xA0) = 1 :=
  ⟨⟨rfl, rfl⟩, ⟨rfl, rfl⟩, fun _ => by decide, rfl, by decide, by decide, by decide, fun _ => by decide, by decide,
    by decide, by decide, fun _ => by decide, fun _ => by decide, fun _ => by decide, by decide, by decide⟩

/-- MmioPixels: during a read-back, where the FIFO is drained and nothing is queued. -/
theorem test_hyps_mmioReading :
    reaches readingState.cfg readingState.inputs Window.legacy.space = true ∧ readingState.fifo.drained = true ∧
    readingState.queuing = false ∧ ∀ l : BitVec 2, named readingState .io (pixPortLo + l.toNat) :=
  ⟨rfl, by decide, by decide, fun _ => ⟨rfl, rfl⟩⟩

/-- PackedWrites and PackedReads: every packed register in both windows. -/
theorem test_hyps_packed (k : PackedReg) :
    packedOpen State.reset .legacy k ∧
    packedOpen (session fun c => { c with cap := { c.cap with hasNewMmio := true } }) .linear k := by
  cases k <;> exact ⟨⟨⟨rfl, rfl⟩, .inr ⟨rfl, rfl⟩, by decide⟩, ⟨⟨rfl, rfl⟩, .inl rfl, by decide⟩⟩

/-- PackedOff. -/
theorem test_hyps_packedOff :
    let s : State := { State.reset with inputs := { Inputs.session with packedMmioMode := false } }
    reaches s.cfg s.inputs .legacyMmio = true ∧ s.cfg.aliases = [] ∧
      (s.cfg.cap.hasPackedMmio && s.inputs.packedMmioMode) = false := by decide

/-- ReadBackBytes: nothing buffered, a byte that is not the last, and the last byte of the last pixel. -/
theorem test_hyps_readBack :
    named readingState .io (pixPortLo + (3 : BitVec 2).toNat) ∧ readsNow readingState ∧
    readingState.eng.active = true ∧ readingState.eng.cls = 2 ∧ cmdPcdata readingState.eng.cmd = true ∧
    cmdWrtdata readingState.eng.cmd = false ∧ readingState.eng.rb = [] ∧
    (∀ b e, ({ readingState with eng := { readingState.eng with rb := [b], rbEnded := e } } : State).eng.rb = [b]) :=
  ⟨⟨rfl, rfl⟩, .inl rfl, rfl, rfl, by decide, by decide, rfl, fun _ _ => rfl⟩

/-- Unmapped: a port and its bytes, a register the chip lacks, both ends of the unmapped range and of the port
mirror. -/
theorem test_hyps_unmapped :
    (∀ k, k < widthBytes .w32 → isPort ((0x1234 : BitVec 16).toNat + k) = false) ∧
    named State.reset .io (0x1234 : BitVec 16).toNat ∧
    isSecondPoint .curX2 = true ∧
    hasSecondPoint { State.reset.cfg.cap with hasPolygon := false, hasPolyline := false, hasRopblt := false } = false ∧
    (0x10000 : BitVec 17).toNat + widthBytes .w32 ≤ 0x18000 ∧
    (0x17FFF : BitVec 17).toNat + widthBytes .w8 ≤ 0x18000 ∧
    (named State.reset .legacyMmio 0x8000 ∧ (∀ k, k < widthBytes .w32 → isPort (0x8000 + k) = false) ∧
      noPacked State.reset .legacyMmio 0x8000 ∧ named State.reset .legacyMmio (portAddr .curX2 true) ∧
      noPacked State.reset .legacyMmio (portAddr .curX2 true)) ∧
    (∀ k, k < widthBytes .w8 → isPort (0xFFFF + k) = false) := by
  refine ⟨by decide, ⟨rfl, rfl⟩, rfl, rfl, by decide, by decide, 
    ⟨⟨rfl, rfl⟩, by decide, fun _ => by decide, ⟨rfl, rfl⟩, fun _ => by decide⟩, by decide⟩

/-- NotReached, in the three spaces. -/
theorem test_hyps_notReached :
    ({ State.reset with inputs := { Inputs.session with ioEnabled := false } } : State).inputs.ioEnabled = false ∧
    (accessOf (.inCurX false .w16)).1 = .io ∧
    ¬ (State.reset.cfg.cap.hasNewMmio = true ∧ State.reset.inputs.newMmioEnabled = true) ∧
    (accessOf (.mmioStreams 0x18000 (.read .w8))).1 = .newMmio ∧
    (accessOf (.mw32PkMix .legacy 0)).1 = .legacyMmio := by decide

/-- StreamsRefused, reached and not. -/
theorem test_hyps_streams :
    0x18000 ≤ (0x18000 : BitVec 17).toNat ∧ reaches State.reset.cfg State.reset.inputs .newMmio = false ∧
    reaches (session fun c => { c with cap := { c.cap with hasNewMmio := true } }).cfg Inputs.session .newMmio = true := by
  decide

/-- SplitWrites: a register in a port and in a window, direct and queued with one slot left. -/
theorem test_hyps_splitWrites :
    present State.reset .curX ∧ named State.reset .io (portOf .curX + 1) ∧ named State.reset .legacyMmio (portOf .curX) ∧
    noPacked State.reset .legacyMmio (portOf .curX) ∧ 0x8000 ≤ portOf .curX ∧ State.reset.fifo.drained = true ∧
    (queueState 65531).queuing = true ∧ (queueState 65531).fifo.entries < 65536 - 4 ∧ readsNow State.reset :=
  ⟨fun _ => rfl, ⟨rfl, rfl⟩, ⟨rfl, rfl⟩, fun _ => by decide, by decide, by decide, by decide, by decide, .inl rfl⟩

/-- SplitWrites and SplitReads: an access that starts before a register's port, its first part held and not. -/
theorem test_hyps_splitAny :
    named State.reset .io 0x86E7 ∧ oneAccess State.reset .io 0x86E7 .w16 = false ∧
    accessOf (.ioUnmapped 0x86E7 (.write .w16 5)) = (.io, 0x86E7, .write .w16 5) ∧
    accessOf (.ioUnmapped 0x86E7 (.write .w8 5)) = (.io, 0x86E7, .write .w8 5) ∧
    State.reset.held ⟨.io, 0x86E7, .write .w8 5, 0, .w16, false, none⟩ = false ∧
    accessOf (.inCurX true .w32) = (.io, 0x86E9, .read .w32) ∧ oneAccess State.reset .io 0x86E9 .w32 = false ∧
    State.reset.held ⟨.io, 0x86E9, .read .w8, 0, .w32, false, none⟩ = false ∧
    named (queueState 1) .io 0x86E9 ∧ oneAccess (queueState 1) .io 0x86E9 .w32 = false ∧
    (queueState 1).held ⟨.io, 0x86E9, .read .w8, 0, .w32, false, none⟩ = true ∧
    (queueState 65532).held ⟨.io, 0x86E9, .write .w8 5, 0, .w32, false, none⟩ = true :=
  ⟨⟨rfl, rfl⟩, by decide, rfl, rfl, by decide, rfl, by decide, by decide, ⟨rfl, rfl⟩, by decide, by decide, by decide⟩

/-- SplitWrites: a waiting part about which nothing is decided, with the host's turn and with none chosen, performed
directly, queued, and found held. -/
theorem test_hyps_splitStepWrite :
    let p : Part := ⟨.io, 0x86E9, .write .w8 5, 1, .w16, true, none⟩
    let s (n : Nat) (ts : List Turn) : State :=
      { queueState n with host := { HostSide.idle with sched := ts, pending := [p] } }
    (∀ n ts, (s n ts).host.pending = [p] ∧ (s n ts).host.sched = ts) ∧
    State.reset.held p = false ∧ (State.reset.decisionOf p).route = .drained ∧
    (s 1 []).held p = false ∧ ((s 1 []).decisionOf p).route = .queued ∧ (s 65532 [.host]).held p = true ∧
    (s 1 []).held ⟨.io, 0x86E9, .read .w8, 1, .w16, true, none⟩ = true :=
  ⟨fun _ _ => ⟨rfl, rfl⟩, by decide, by decide, by decide, by decide, by decide, by decide⟩

/-- SplitReads: a waiting part that is the last, one that is not, and one that reaches the streams engine. -/
theorem test_hyps_splitStep :
    let s (p : Part) : State :=
      { State.reset with host := { HostSide.idle with sched := [.host], pending := [p] } }
    let part (last : Bool) (d : Option Decision) : Part := ⟨.io, 0x86EA, .read .w8, 2, .w32, last, d⟩
    (∀ p, (s p).host.pending = [p] ∧ (s p).host.sched = [.host]) ∧
    (s (part true none)).held (part true none) = false ∧
    ((s (part true none)).decisionOf (part true none)).target ≠ .streams ∧
    (s (part false none)).held (part false none) = false ∧
    (s (part true (some ⟨.streams, .atOnce⟩))).held (part true (some ⟨.streams, .atOnce⟩)) = false ∧
    ((s (part true (some ⟨.streams, .atOnce⟩))).decisionOf (part true (some ⟨.streams, .atOnce⟩))).target = .streams :=
  ⟨fun _ => ⟨rfl, rfl⟩, by decide, by decide, by decide, by decide, by decide⟩

/-- Enqueue, with room (none queued, and one slot left) and with the queue full. -/
theorem test_hyps_enqueue :
    accessOf (.outCurX false .w16 5) = (.io, 0x86E8, .write .w16 5) ∧
    queueable (resolve (queueState 0).cfg (queueState 0).inputs .io 0x86E8 .w16) = true ∧
    (∀ n, named (queueState n) .io 0x86E8 ∧ (queueState n).cfg.cap.fifoCapable = true ∧
      (queueState n).inputs.fifoMode = true ∧ (queueState n).regs.advfunc.getLsbD 0 = true) ∧
    (queueState 0).fifo.entries < 65536 - 4 ∧ (queueState 65531).fifo.entries < 65536 - 4 ∧
    65536 - 4 ≤ (queueState 65532).fifo.entries :=
  ⟨rfl, by decide, fun _ => ⟨⟨rfl, rfl⟩, rfl, rfl, (by decide : (1 : Half).getLsbD 0 = true)⟩, by decide, by decide,
    by decide⟩

/-- QueueOrder: the emptiest and the fullest queue of each clause. -/
theorem test_hyps_queueOrder :
    (queueState 0).fifo.entries < 65536 ∧ (queueState 65535).fifo.entries < 65536 ∧
    0 < (queueState 1).fifo.entries ∧ 0 < (queueState 65536).fifo.entries := by decide

/-- DrainStep: the last entry, and an empty queue. -/
theorem test_hyps_drain :
    let s (n : Nat) : State := { queueState n with host := { HostSide.idle with sched := [.engine] } }
    (s 1).host.sched = [.engine] ∧ (s 1).fifo.entries = 1 ∧ (s 0).fifo.entries = 0 ∧
    answers (applyEntry (s 1).fifo.head { s 1 with
      fifo := { (s 1).fifo with readIdx := (s 1).fifo.readIdx + 1, busy := true }
      host := { (s 1).host with sched := [] } }) (fun _ => true) = true := by decide

/-- DrainAsDirect: a port write and a packed write. -/
theorem test_hyps_drainAsDirect :
    queueable (resolve State.reset.cfg State.reset.inputs .io 0x86E8 .w16) = true ∧
    queueable (resolve State.reset.cfg State.reset.inputs .legacyMmio 0x8144 .w32) = true := by decide

/-- HostHolds: a read, and a write that is not queued. -/
theorem test_hyps_holds :
    0 < (queueState 1).fifo.entries ∧ (queueState 1).enableFifo = true ∧ (queueState 1).queuing = true ∧
    resolve (queueState 1).cfg (queueState 1).inputs .io 0x9AE8 .w16 = .reg .cmd .word ∧
    queueable (resolve (queueState 1).cfg (queueState 1).inputs .io 0x42E8 .w16) = false ∧
    resolve (queueState 1).cfg (queueState 1).inputs .io 0x42E8 .w16 = .reg .subsys .word := by decide

/-- HeldProgress: a held read, with no turn chosen; with the host's turn, held, and free once the FIFO is empty. -/
theorem test_hyps_heldProgress :
    let s (n : Nat) (ts : List Turn) : State :=
      { queueState n with host := { HostSide.idle with sched := ts, pending := [heldRead] } }
    FifoOk (s 1 []) ∧ (s 1 []).waits heldRead = true ∧ (s 1 [.host]).waits heldRead = true ∧
      (s 0 [.host]).waits heldRead = false ∧ heldRead.decided = some ⟨.reg .cmd .word, .drained⟩ :=
  ⟨by unfold FifoOk; decide, by decide, by decide, by decide, rfl⟩

/-- PixelFrame: inside and outside the clip, an operation with and without CPU data, a mask of 0. -/
theorem test_hyps_pixelFrame :
    takesCpu suspended.eng.cmd = true ∧ Memory.wf suspended.vram = true ∧ takesCpu State.reset.eng.cmd = false ∧
    cmdDraw State.reset.eng.cmd = false ∧ State.reset.regs.wrtMask &&& pixelMask State.reset.cfg.depth = 0 ∧
    suspended.regs.clipPass 0 0 = true ∧ suspended.regs.clipPass 4095 4095 = true ∧
    State.reset.regs.clipPass 1 0 = false := by decide

/-- PixelResult: mix bits from the CPU, from the comparison and fixed; the four colour sources; both compare
modes. -/
theorem test_hyps_pixelResult :
    let s : State := { suspended with eng := { suspended.eng with cpuBits := [false] } }
    let u : State := { suspended with
      regs := suspended.regs.setMf 0xA 0xC0, eng := { suspended.eng with cpuPix := [7] } }
    MemOk s ∧ pixelBytes s.cfg.depth ≤ 2 ^ s.cfg.vramBits ∧ s.cfg.ropSource = .mixNibbles ∧
      cmdDraw s.eng.cmd = true ∧ s.regs.clipPass 0 0 = true ∧ s.regs.clipInv = false ∧
      s.regs.mixSel = 2 ∧ takesCpu s.eng.cmd = true ∧ s.eng.cpuBits = [false] ∧
      u.regs.mixSel = 3 ∧ u.takesCpuPix = true ∧ u.eng.cpuPix = [7] ∧
      ([0x07, 0x27, 0x47, 0x67].map mixSource : List (BitVec 2)) = [0, 1, 2, 3] := by
  refine ⟨⟨by decide, by decide⟩, ?_⟩
  decide

/-- PixelRoundTrip: the smallest VRAM for each pixel width. -/
theorem test_hyps_pixelRoundTrip :
    Memory.wf twoBytes = true ∧ pixelBytes .bpp8 ≤ 2 ^ 0 ∧ pixelBytes .bpp16 ≤ 2 ^ 1 ∧ pixelBytes .bpp32 ≤ 2 ^ 2 := by
  decide

/-- The commands: performed at once in the I/O space and the legacy window, none refused at reset, gates open. -/
theorem test_hyps_commands :
    commandNow State.reset .io ∧ commandNow State.reset .legacyMmio ∧
    (∀ cls : BitVec 3, refusedCommand State.reset false
      (cmdWord cls ⟨false, false, 0, true, true, true, true, true, true, true, true, true⟩) = none) ∧
    refusedCommand State.reset true 0 = none ∧
    State.reset.cfg.cap.hasPolygon = true ∧ State.reset.cfg.cap.hasPolyline = true ∧
    State.reset.cfg.cap.hasRopblt = true :=
  ⟨⟨⟨⟨rfl, rfl⟩, fun _ => rfl⟩, ⟨rfl, rfl⟩⟩, ⟨⟨⟨rfl, rfl⟩, fun _ => rfl⟩, ⟨rfl, rfl⟩⟩, by decide, by decide, rfl, rfl, rfl⟩

/-- GatedCommands: a chip that lacks the three classes. -/
theorem test_hyps_gated :
    let s := session fun c =>
      { c with cap := { c.cap with hasPolygon := false, hasRopblt := false, hasPolyline := false } }
    commandNow s .io ∧ s.cfg.cap.hasPolygon = false ∧ s.cfg.cap.hasRopblt = false ∧ s.cfg.cap.hasPolyline = false :=
  ⟨⟨⟨⟨rfl, rfl⟩, fun h => absurd h (by decide)⟩, ⟨rfl, rfl⟩⟩, rfl, rfl, rfl⟩

/-- RefusedCommands: each of its refusals is met, and so is none of them. -/
theorem test_hyps_refused :
    let dbl := session fun c => { c with depth := .bpp16, cap := { c.cap with byteDoubling := true } }
    let deep := session fun c => { c with depth := .bpp24 }
    refusedCommand dbl false 0x40B1 = some .byteDoubling16bpp ∧ refusedCommand dbl false 0x41B0 = none ∧
    refusedCommand State.reset false 0x46B1 = some .packed32SubMode ∧
    refusedCommand deep false 0x45B1 = some .cpuPixelPacking ∧ refusedCommand State.reset false 0x41B1 = none ∧
    gate State.reset.cfg.cap (cmdClass 0x6011) = true := by decide

/-- RefusedCommands: a stroke of each case, and a completed unit whose pixels do not fit. -/
theorem test_hyps_refusedUnit :
    let t : State := { suspended with cfg := { suspended.cfg with depth := .bpp16 }, regs := suspended.regs.setMf 0xA 0 }
    portOpen State.reset .io .shortStroke true ∧ writesNow State.reset ∧ cmdClass State.reset.regs.cmd = 0 ∧
    State.reset.cfg.cap.hasPacked32 = true ∧ cmdBus 0x0600 = 3 ∧ cmdClass 0x0600 = 0 ∧
    named t .io (pixPortLo + (0 : BitVec 2).toNat) ∧ writesNow t ∧ t.eng.active = true ∧ takesCpu t.eng.cmd = true ∧
    cmdWrtdata t.eng.cmd = true ∧ t.eng.pixCount.toNat + 1 = unitSize t.regs.cmd ∧ t.regs.mixSel ≠ 2 ∧
    unitSize t.regs.cmd < pixelBytes t.cfg.depth :=
  ⟨⟨⟨rfl, rfl⟩, fun _ => rfl⟩, ⟨rfl, rfl⟩, by decide, rfl, by decide, by decide, ⟨rfl, rfl⟩, ⟨rfl, rfl⟩, rfl, by decide,
    by decide, by decide, by decide, by decide⟩

/-- The invariants, each with a step that answers a next state. -/
theorem test_hyps_invariants :
    MemOk State.reset ∧ FifoOk State.reset ∧ CoordsOk State.reset ∧ StatusOk State.reset ∧ EngineOk State.reset ∧
    step State.reset = .next State.reset :=
  ⟨⟨by decide, by decide⟩, by unfold FifoOk; decide, by unfold CoordsOk isCoord; decide, by unfold StatusOk; decide,
    fun h => absurd h (by decide), rfl⟩

/-- ContextKept: a step that faults. -/
theorem test_hyps_fault :
    step (programmed [0] []) = .fault (.malformedRecord .truncated) ∧
    decode (programmed [0] []).host.program = .error .truncated := ⟨rfl, rfl⟩

end Sys2Proof.Tests
end

section
/-!
PROOFS. The accesses that do not reach the block (spec/20_memory.md R89).
-/
namespace Sys2Proof.Machine

/-! ### The enable of each space (R89) -/

@[simp] theorem reaches_io (cfg : Config) (inp : Inputs) : reaches cfg inp .io = inp.ioEnabled := rfl

@[simp] theorem reaches_legacyMmio (cfg : Config) (inp : Inputs) :
    reaches cfg inp .legacyMmio = (cfg.cap.hasLegacyMmio && inp.legacyMmioEnabled) := rfl

@[simp] theorem reaches_newMmio (cfg : Config) (inp : Inputs) :
    reaches cfg inp .newMmio = (cfg.cap.hasNewMmio && inp.newMmioEnabled) := rfl

/-! ### What an access that misses the block does (R89) -/

@[simp] theorem missAccess_write (w : Width) (v : Word) (s : State) : missAccess (.write w v) s = s := rfl

@[simp] theorem missAccess_read (w : Width) (s : State) :
    missAccess (.read w) s = returnRead w (openBus w) s := rfl

/-- An instruction whose space is not enabled is an access that misses the block. -/
theorem exec_missed (i : Instr) (s : State) (h : reaches s.cfg s.inputs (accessOf i).1 = false) :
    exec i s = .next (missAccess (accessOf i).2.2 s) := by
  rw [exec_access, hostAccess_missed _ _ _ _ h]

end Sys2Proof.Machine

namespace Sys2Proof
open Sys2Proof.Machine

/-- Settles O27: every instruction is its bus access, and one that misses the block is dropped or reads open bus. -/
theorem notReached : Obligations.NotReached := by
  unfold Obligations.NotReached
  intro i s hdisabled
  have hmiss : reaches s.cfg s.inputs (accessOf i).1 = false := by
    cases hspace : (accessOf i).1 <;> simpa [hspace] using hdisabled
  rw [exec_missed i s hmiss]
  cases (accessOf i).2.2 with
  | write w v => rw [missAccess_write]
  | read w =>
    rw [missAccess_read]
    cases w <;> rfl

end Sys2Proof
end

section
/-!
PROOFS. Open bus: the accesses at which nothing is mapped (spec/30_encoding.md R112).
-/
namespace Sys2Proof.Machine

/-! ### An access at which nothing decodes -/

/-- Where no byte decodes, byte by byte, nothing decodes. -/
theorem nothingDecodes_of_bytes (cfg : Config) (inp : Inputs) (sp : Space) :
    ∀ n a, (∀ k, k < n → resolve cfg inp sp (a + k) .w8 = .unmapped) → nothingDecodes cfg inp sp a n = true
  | 0, _, _ => rfl
  | n + 1, a, h => by
    have hrest : nothingDecodes cfg inp sp (a + 1) n = true := by
      refine nothingDecodes_of_bytes cfg inp sp n (a + 1) fun k hk => ?_
      rw [Nat.add_assoc, Nat.add_comm 1 k]
      exact h (k + 1) (by omega)
    have hfirst : resolve cfg inp sp a .w8 = .unmapped := h 0 (by omega)
    simp [nothingDecodes, hfirst, hrest]

/-- A read handled whole that reaches nothing returns all ones, whether or not the FIFO is drained (R112). -/
theorem hostAccess_unmapped_read (sp : Space) (a : Nat) (w : Width) (s : State)
    (hr : reaches s.cfg s.inputs sp = true) (ha : aliased s.cfg sp a = a)
    (hw : handledWhole s.cfg s.inputs sp a w = true) (h1 : resolve s.cfg s.inputs sp a w = .unmapped) :
    hostAccess sp a (.read w) s = .next (returnRead w (openBus w) s) := by
  have hheld : s.held (wholePart sp a (.read w)) = false := by
    rw [wholePart_held]; simp [BusAction.width, h1]
  have htarget : (s.decisionOf (wholePart sp a (.read w))).target = .unmapped := by
    rw [wholePart_decision]; exact h1
  rw [hostAccess_whole sp a (.read w) s hr ha hw, runPart_read _ s w rfl hheld, htarget]
  rfl

/-- A pair of instructions, a write and a read, is open bus: the write changes nothing, the read returns all
ones. -/
def OpensBus (s : State) (w : Width) (write read : Instr) : Prop :=
  exec write s = .next s ∧ exec read s = .next (returnRead w (openBus w) s)

/-- The write and the read of an access that decodes neither whole nor by any byte are open bus (R86, R112). -/
theorem opensBus_of_unmapped {write read : Instr} {sp : Space} {a : Nat} {w : Width} {v : Word} {s : State}
    (hwrite : accessOf write = (sp, a, .write w v)) (hread : accessOf read = (sp, a, .read w))
    (hr : reaches s.cfg s.inputs sp = true) (ha : aliased s.cfg sp a = a)
    (hwhole : resolve s.cfg s.inputs sp a w = .unmapped)
    (hbytes : ∀ k, k < widthBytes w → resolve s.cfg s.inputs sp (a + k) .w8 = .unmapped) :
    OpensBus s w write read := by
  have hw : handledWhole s.cfg s.inputs sp a w = true := by
    simp [handledWhole, nothingDecodes_of_bytes _ _ _ _ _ hbytes]
  constructor
  · rw [exec_access, hwrite]; exact hostAccess_unmapped_write sp a w v s hr ha hw hwhole
  · rw [exec_access, hread]; exact hostAccess_unmapped_read sp a w s hr ha hw hwhole

/-! ### Ports that map nothing -/

/-- None of the `n` ports from `a` on maps anything on the chip, whatever the width. -/
def PortsUnmapped (cap : Cap) (a n : Nat) : Prop := ∀ k, k < n → ∀ w, resolvePort cap (a + k) w = .unmapped

/-- A port outside the port map maps nothing (R110, R112). -/
theorem resolvePort_of_not_isPort (cap : Cap) (a : Nat) (w : Width) (h : isPort a = false) :
    resolvePort cap a w = .unmapped := by
  simp only [isPort, Bool.or_eq_false_iff, Option.isSome_eq_false_iff, Option.isNone_iff_eq_none] at h
  obtain ⟨hpix, hfind⟩ := h
  simp [resolvePort, hpix, hfind]

/-- A byte of a second-point register the chip lacks maps nothing (R112). -/
theorem resolvePort_absent (cap : Cap) (r : PortReg) (odd : Bool) (w : Width) (hr : isSecondPoint r = true)
    (hcap : hasSecondPoint cap = false) : resolvePort cap (portAddr r odd) w = .unmapped := by
  simp [resolvePort, not_pixPort, findPort_portAddr, hr, hcap]

/-- The four bytes from either byte of a second-point register on are its own or outside the port map. -/
theorem secondPoint_bytes (r : PortReg) (odd : Bool) : isSecondPoint r = true →
    ∀ k < 4, isPort (portAddr r odd + k) = false ∨ ∃ o, portAddr r odd + k = portAddr r o := by
  cases r <;> cases odd <;> decide

/-- A second-point register and the bytes of an access at it lie in the window's mirror of the ports. -/
theorem secondPoint_range (r : PortReg) (odd : Bool) : isSecondPoint r = true →
    0x8000 ≤ portAddr r odd ∧ portAddr r odd + 4 ≤ 0x10000 := by
  cases r <;> cases odd <;> decide

theorem widthBytes_pos (w : Width) : 0 < widthBytes w := by cases w <;> decide

theorem widthBytes_le (w : Width) : widthBytes w ≤ 4 := by cases w <;> decide

theorem portsUnmapped_of_not_isPort (cap : Cap) (a n : Nat) (h : ∀ k, k < n → isPort (a + k) = false) :
    PortsUnmapped cap a n :=
  fun k hk w => resolvePort_of_not_isPort cap (a + k) w (h k hk)

theorem portsUnmapped_of_absent (cap : Cap) (r : PortReg) (odd : Bool) (w : Width) (hr : isSecondPoint r = true)
    (hcap : hasSecondPoint cap = false) : PortsUnmapped cap (portAddr r odd) (widthBytes w) := by
  intro k hk w'
  rcases secondPoint_bytes r odd hr k (Nat.lt_of_lt_of_le hk (widthBytes_le w)) with hout | ⟨o, hown⟩
  · exact resolvePort_of_not_isPort cap _ w' hout
  · rw [hown]; exact resolvePort_absent cap r o w' hr hcap

/-! ### The three spaces in which nothing is mapped -/

/-- An offset from 0x8000 to 0xFFFF of a window is the mirror of a port, unless a packed register is in force for a
32-bit access there (R115, R116). -/
theorem resolve_mirror (s : State) (win : Window) (a : Nat) (w : Width) (hlo : 0x8000 ≤ a) (hhi : a < 0x10000)
    (hpacked : w = .w32 → noPacked s win.space a) :
    resolve s.cfg s.inputs win.space a w = resolvePort s.cfg.cap a w := by
  have hmirror : ∀ on : Bool, (on = true → w = .w32 → findPacked a s.cfg.packedMap = none) →
      resolveWindow s.cfg on a w = resolvePort s.cfg.cap a w := by
    intro on hnone
    have hlook : (if on && decide (w = .w32) then findPacked a s.cfg.packedMap else none) = none := by
      split
      · next hon =>
        simp only [Bool.and_eq_true, decide_eq_true_eq] at hon
        exact hnone hon.1 hon.2
      · rfl
    simp only [resolveWindow, if_neg (Nat.not_lt.mpr hlo), hlook]
  cases win with
  | legacy =>
    simp only [resolve, Window.space, if_pos hhi]
    refine hmirror _ fun hon hw => hpacked hw (.inr ?_)
    simpa using hon
  | linear =>
    simp only [resolve, Window.space, if_pos hhi]
    exact hmirror true fun _ hw => hpacked hw (.inl rfl)

/-- An I/O access of unmapped ports is open bus (R112). -/
theorem opensBus_io {write read : Instr} {a : Nat} {w : Width} {v : Word} {s : State}
    (hwrite : accessOf write = (.io, a, .write w v)) (hread : accessOf read = (.io, a, .read w))
    (hnamed : named s .io a) (hports : PortsUnmapped s.cfg.cap a (widthBytes w)) : OpensBus s w write read :=
  opensBus_of_unmapped hwrite hread hnamed.1 (aliased_of_none _ _ _ hnamed.2)
    (hports 0 (widthBytes_pos w) w) fun k hk => hports k hk .w8

/-- A window access of the mirror of unmapped ports is open bus, where no packed register is in force (R112, R115,
R116). -/
theorem opensBus_window {write read : Instr} {win : Window} {a : Nat} {w : Width} {v : Word} {s : State}
    (hwrite : accessOf write = (win.space, a, .write w v)) (hread : accessOf read = (win.space, a, .read w))
    (hnamed : named s win.space a) (hlo : 0x8000 ≤ a) (hhi : a + widthBytes w ≤ 0x10000)
    (hpacked : w = .w32 → noPacked s win.space a) (hports : PortsUnmapped s.cfg.cap a (widthBytes w)) :
    OpensBus s w write read := by
  have hpos := widthBytes_pos w
  refine opensBus_of_unmapped hwrite hread hnamed.1 (aliased_of_none _ _ _ hnamed.2) ?_ fun k hk => ?_
  · rw [resolve_mirror s win a w hlo (by omega) hpacked]
    exact hports 0 hpos w
  · rw [resolve_mirror s win (a + k) .w8 (by omega) (by omega) nofun]
    exact hports k hk .w8

/-- Offsets 0x10000 to 0x17FFF of the new window map nothing (R116). -/
theorem resolve_upper (cfg : Config) (inp : Inputs) (a : Nat) (w : Width) (hlo : 0x10000 ≤ a)
    (hhi : a < 0x18000) : resolve cfg inp .newMmio a w = .unmapped := by
  simp [resolve, Nat.not_lt.mpr hlo, hhi]

/-- No second name stands above the mirror of the ports (R111). -/
theorem aliased_upper (cfg : Config) (a : Nat) (hlo : 0x10000 ≤ a) : aliased cfg .newMmio a = a := by
  simp [aliased, Nat.not_lt.mpr hlo]

/-- An access inside the upper middle range of the new window is open bus (R112, R116). -/
theorem opensBus_upper {write read : Instr} {a : Nat} {w : Width} {v : Word} {s : State}
    (hwrite : accessOf write = (.newMmio, a, .write w v)) (hread : accessOf read = (.newMmio, a, .read w))
    (hr : reaches s.cfg s.inputs .newMmio = true) (hlo : 0x10000 ≤ a) (hhi : a + widthBytes w ≤ 0x18000) :
    OpensBus s w write read := by
  have hpos := widthBytes_pos w
  exact opensBus_of_unmapped hwrite hread hr (aliased_upper _ a hlo)
    (resolve_upper _ _ a w hlo (by omega)) fun k hk => resolve_upper _ _ (a + k) .w8 (by omega) (by omega)

/-! ### The access of a port register's rows -/

theorem accessOf_outInstr (r : PortReg) (odd : Bool) (w : Width) (v : Word) :
    accessOf (outInstr r odd w v) = (.io, portAddr r odd, .write w v) := by cases r <;> rfl

theorem accessOf_inInstr (r : PortReg) (odd : Bool) (w : Width) :
    accessOf (inInstr r odd w) = (.io, portAddr r odd, .read w) := by cases r <;> rfl

/-- A port number is a window offset. -/
theorem portAddr_toNat (r : PortReg) (odd : Bool) : (BitVec.ofNat 17 (portAddr r odd)).toNat = portAddr r odd := by
  have hlt : portAddr r odd < 0x10000 := Laws.Canonical.port_lt r odd
  rw [BitVec.toNat_ofNat]
  omega

theorem accessOf_regWrite (win : Window) (r : PortReg) (odd : Bool) (w : Width) (v : Word) :
    accessOf (regWrite win.space r odd w v) = (win.space, portAddr r odd, .write w v) := by
  cases win <;> simp only [regWrite, Window.space, accessOf, portAddr_toNat]

theorem accessOf_regRead (win : Window) (r : PortReg) (odd : Bool) (w : Width) :
    accessOf (regRead win.space r odd w) = (win.space, portAddr r odd, .read w) := by
  cases win <;> simp only [regRead, Window.space, accessOf, portAddr_toNat]

end Sys2Proof.Machine

namespace Sys2Proof
open Sys2Proof.Machine

/-- Settles O26: in each of the five places no byte of the access decodes, so that it is one open-bus access. -/
theorem unmapped : Obligations.Unmapped := by
  unfold Obligations.Unmapped
  intro s w v
  refine ⟨fun port hnamed hports => ?port, fun r odd hr hcap hnamed => ?register,
    fun off hreach hlo hhi => ?upper, fun win off hnamed hlo hhi hports hpacked => ?mirror,
    fun win r odd hr hcap hnamed hpacked => ?mirroredRegister⟩
  case port =>
    exact opensBus_io rfl rfl hnamed (portsUnmapped_of_not_isPort _ _ _ hports)
  case register =>
    exact opensBus_io (accessOf_outInstr r odd w v) (accessOf_inInstr r odd w) hnamed
      (portsUnmapped_of_absent _ r odd w hr hcap)
  case upper =>
    exact opensBus_upper rfl rfl hreach hlo hhi
  case mirror =>
    exact opensBus_window rfl rfl hnamed hlo hhi hpacked (portsUnmapped_of_not_isPort _ _ _ hports)
  case mirroredRegister =>
    obtain ⟨hlo, hhi⟩ := secondPoint_range r odd hr
    exact opensBus_window (accessOf_regWrite win r odd w v) (accessOf_regRead win r odd w) hnamed hlo
      ((Nat.add_le_add_left (widthBytes_le w) _).trans hhi) hpacked (portsUnmapped_of_absent _ r odd w hr hcap)

end Sys2Proof
end

section
/-!
PROOFS. The status words and the interrupt output (spec/30_encoding.md R140, R141; spec/60_exceptions.md R406).
-/
namespace Sys2Proof.Machine

/-! ### The bits of `GP_STAT` (R140) -/

/-- Bit `j` of the thermometer. -/
theorem thermometer_getLsbD (n j : Nat) (hj : j < 8) : (thermometer n).getLsbD j = thermometerBit n j := by
  simp only [thermometer, BitVec.getLsbD_append]
  interval_cases j <;> simp

/-- Bit `j` of the thermometer is set when fewer than `8 - j` slots are free, the headroom's slots not counted. -/
theorem thermometerBit_iff (n j : Nat) (hj : j < 8) :
    thermometerBit n j = true ↔ (65536 - 4 : Int) - n < 8 - j := by
  have hfree : thermometerBit n j = true ↔ 65536 - 4 < n + (8 - j) := decide_eq_true_iff
  rw [hfree]
  omega

/-- Which field of `GP_STAT` a bit lies in: the thermometer, data_available, busy, and zeros above. -/
theorem gpStat_getLsbD (s : State) (j : Nat) :
    s.gpStat.getLsbD j =
      if j < 8 then (thermometer s.fifo.entries).getLsbD j
      else if j = 8 then s.eng.dataAvailable
      else decide (j = 9) && s.busy := by
  simp only [State.gpStat, BitVec.getLsbD_append]
  rcases Nat.lt_trichotomy j 8 with hj | rfl | hj
  · simp [hj, show j < 1 + 8 by omega, show j < 1 + (1 + 8) by omega]
  · simp
  · by_cases h9 : j = 9
    · simp [h9]
    · simp [h9, show ¬ j < 1 + (1 + 8) by omega, show ¬ j < 8 by omega, hj.ne']

theorem gpStat_thermometer (s : State) (j : Nat) (hj : j < 8) :
    s.gpStat.getLsbD j = thermometerBit s.fifo.entries j := by
  rw [gpStat_getLsbD, if_pos hj, thermometer_getLsbD _ j hj]

theorem gpStat_dataAvailable (s : State) : s.gpStat.getLsbD 8 = s.eng.dataAvailable := by
  rw [gpStat_getLsbD]; rfl

theorem gpStat_busy (s : State) : s.gpStat.getLsbD 9 = s.busy := by
  rw [gpStat_getLsbD]; rfl

theorem gpStat_reserved (s : State) (j : Nat) (hj : 10 ≤ j) : s.gpStat.getLsbD j = false := by
  rw [gpStat_getLsbD, if_neg (by omega), if_neg (by omega), decide_eq_false (by omega), Bool.false_and]

theorem busy_iff (s : State) :
    s.busy = true ↔ s.eng.active = true ∨ s.fifo.busy = true ∨ 0 < s.fifo.entries := by
  simp [State.busy, or_assoc]

/-! ### The interrupt output (R406) -/

/-- The conjunction of two words is not zero when they share a bit. -/
theorem and_ne_zero_iff {w : Nat} (a b : BitVec w) :
    a &&& b ≠ 0 ↔ ∃ i, i < w ∧ a.getLsbD i = true ∧ b.getLsbD i = true := by
  have hzero : a &&& b = 0 ↔ ∀ i, i < w → (a.getLsbD i && b.getLsbD i) = false := by
    simp [BitVec.eq_of_getLsbD_eq_iff]
  rw [ne_eq, hzero]
  simp

theorem irq_iff (s : State) :
    s.irq = true ↔ ∃ b, b < 4 ∧ s.regs.subsysStat.getLsbD b = true ∧ s.regs.subsysEn.getLsbD b = true := by
  rw [← and_ne_zero_iff]
  simp [State.irq]

/-! ### Reads of a port register -/

/-- The part of a register a form names is what the port's access reaches. -/
theorem regTarget_of_formOf (r : PortReg) {odd : Bool} {w : Width} {part : RegPart}
    (h : formOf odd w = some part) : regTarget r odd w = .reg r part := by
  cases odd <;> cases w <;> cases h <;> rfl

/-- A read of a port register that nothing holds returns the part its form names (R170). -/
theorem exec_inInstr (r : PortReg) (odd : Bool) (w : Width) (part : RegPart) (s : State)
    (hform : formOf odd w = some part) (hopen : portOpen s .io r odd) (hnow : readsNow s) :
    exec (inInstr r odd w) s = .next (returnRead w (readReg r part s).1 (readReg r part s).2) := by
  obtain ⟨⟨hreach, halias⟩, hpresent⟩ := hopen
  have htarget : resolve s.cfg s.inputs .io (portAddr r odd) w = .reg r part := by
    rw [resolve_io _ _ r odd w hpresent, regTarget_of_formOf r hform]
  have hread := hostAccess_read .io (portAddr r odd) w s hreach (aliased_of_none _ _ _ halias)
    (handledWhole_of_ne _ _ _ _ _ (by rw [htarget]; nofun)) (by rw [htarget]; nofun) hnow
  rw [exec_access, accessOf_inInstr, hread, htarget]
  rfl

end Sys2Proof.Machine

namespace Sys2Proof
open Sys2Proof.Machine

/-- Settles O23: both reads return the part of a computed word, whose bits are given one by one. -/
theorem statusReads : Obligations.StatusReads := by
  unfold Obligations.StatusReads
  intro s odd w part hform hnow
  refine ⟨irq_iff s,
    fun hopen => ⟨s.gpStat, ?_, ?_, gpStat_dataAvailable s, ?_, gpStat_reserved s⟩, fun hopen => ?_⟩
  · exact exec_inInstr .cmd odd w part s hform hopen hnow
  · intro j hj
    rw [gpStat_thermometer s j hj]
    exact thermometerBit_iff s.fifo.entries j hj
  · rw [gpStat_busy]
    exact busy_iff s
  · exact exec_inInstr .subsys odd w part s hform hopen hnow

end Sys2Proof
end

section
/-!
PROOFS. Writes of a port register that are performed at once (spec/40_bus_access.md R150 to R167).
-/
namespace Sys2Proof.Machine

/-! ### The value bits of a width -/

theorem widthMask_eq (w : Width) : widthMask w = (BitVec.allOnes (8 * widthBytes w)).setWidth 32 := by
  cases w <;> rfl

/-- A field inside the bytes of an access is the same in the value the access carries. -/
theorem extractLsb'_and_widthMask (w : Width) (v : Word) (start len : Nat) (h : start + len ≤ 8 * widthBytes w) :
    (v &&& widthMask w).extractLsb' start len = v.extractLsb' start len := by
  have hbytes := widthBytes_le w
  apply BitVec.eq_of_getLsbD_eq
  intro i hi
  have hin : start + i < 8 * widthBytes w := by omega
  have hword : start + i < 32 := by omega
  simp [widthMask_eq, hin, hword]

theorem setWidth_and_widthMask (w : Width) (v : Word) (n : Nat) (h : n ≤ 8 * widthBytes w) :
    (v &&& widthMask w).setWidth n = v.setWidth n := by
  have hword : n ≤ 32 := h.trans (Nat.mul_le_mul_left 8 (widthBytes_le w))
  rw [BitVec.setWidth_eq_extractLsb' hword, BitVec.setWidth_eq_extractLsb' hword,
    extractLsb'_and_widthMask w v 0 n (by omega)]

/-! ### A register's part takes its bits from the bytes of its access -/

/-- Width of the access that reaches a part of a register. -/
def RegPart.width : RegPart → Width
  | .lo => .w8
  | .hi => .w8
  | .word => .w16

theorem width_of_formOf {odd : Bool} {w : Width} {part : RegPart} (h : formOf odd w = some part) :
    w = part.width := by
  cases odd <;> cases w <;> cases h <;> rfl

/-! A write to a part of a register takes no bit of the value outside the bytes of its access. -/

theorem writeCoord_masked (part : RegPart) (v r : Word) :
    writeCoord part (v &&& widthMask part.width) r = writeCoord part v r := by
  cases part <;>
    simp (disch := decide) only [writeCoord, RegPart.width, extractLsb'_and_widthMask, setWidth_and_widthMask]

theorem writeCount_masked (part : RegPart) (v : Word) (r : BitVec 12) :
    writeCount part (v &&& widthMask part.width) r = writeCount part v r := by
  cases part <;> simp (disch := decide) only [writeCount, RegPart.width, extractLsb'_and_widthMask]

theorem writeHalf_masked (part : RegPart) (v : Word) (r : Half) :
    writeHalf part (v &&& widthMask part.width) r = writeHalf part v r := by
  cases part <;> simp (disch := decide) only [writeHalf, RegPart.width, extractLsb'_and_widthMask]

theorem writeColorPart_masked (part : RegPart) (h : Nat) (v r : Word) :
    writeColorPart part h (v &&& widthMask part.width) r = writeColorPart part h v r := by
  cases part <;> simp (disch := decide) only [writeColorPart, RegPart.width, setWidth_and_widthMask]

theorem writeMultifunc_masked (part : RegPart) (v : Word) (r : Regs) :
    writeMultifunc part (v &&& widthMask part.width) r = writeMultifunc part v r := by
  cases part <;> simp (disch := decide) only [writeMultifunc, RegPart.width, extractLsb'_and_widthMask]

theorem writeSubsys_masked (part : RegPart) (v : Word) (r : Regs) :
    writeSubsys part (v &&& widthMask part.width) r = writeSubsys part v r := by
  cases part <;> simp (disch := decide) only [writeSubsys, RegPart.width, extractLsb'_and_widthMask]

theorem writeShortStroke_masked (part : RegPart) (v : Word) (s : State) :
    writeShortStroke part (v &&& widthMask part.width) s = writeShortStroke part v s := by
  cases part <;>
    simp (disch := decide) only [writeShortStroke, RegPart.width, extractLsb'_and_widthMask, setWidth_and_widthMask]

theorem writeCmdLow_masked (w : Width) (v : Word) (s : State) :
    writeCmdLow (v &&& widthMask w) s = writeCmdLow v s := by
  have hbyte : 0 + 8 ≤ 8 * widthBytes w := Nat.mul_le_mul_left 8 (widthBytes_pos w)
  simp only [writeCmdLow, writeHalf, extractLsb'_and_widthMask w v 0 8 hbyte]

/-- The high byte of a 16-bit `CMD` write is bits 15:8 of its value (R153). -/
theorem writeCmdHigh_shifted (v : Word) (s : State) :
    writeCmdHigh ((v &&& widthMask .w16) >>> 8) s = writeCmdHigh (v >>> 8) s := by
  have hbyte : ((v &&& widthMask .w16) >>> 8).extractLsb' 0 8 = (v >>> 8).extractLsb' 0 8 := by
    simp only [← BitVec.setWidth_eq_extractLsb' (by decide : 8 ≤ 32)]
    exact extractLsb'_and_widthMask .w16 v 8 8 (by decide)
  simp only [writeCmdHigh, writeHalf, hbyte]

theorem writeCmd_masked (part : RegPart) (v : Word) (s : State) :
    writeCmd part (v &&& widthMask part.width) s = writeCmd part v s := by
  cases part with
  | lo => rw [writeCmd, writeCmdLow_masked]; rfl
  | hi => rw [writeCmd, writeCmdHigh, writeHalf_masked .hi]; rfl
  | word => rw [writeCmd, writeCmdLow_masked, RegPart.width, writeCmdHigh_shifted]; rfl

/-- A register write depends on the bytes of its part alone (R150). -/
theorem writeReg_masked (r : PortReg) (part : RegPart) (v : Word) (s : State) :
    writeReg r part (v &&& widthMask part.width) s = writeReg r part v s := by
  cases r <;> simp only [writeReg, mapRegs, writeColor, writeAdvfunc, writeCoord_masked, writeCount_masked,
    writeHalf_masked, writeColorPart_masked, writeMultifunc_masked, writeSubsys_masked, writeCmd_masked,
    writeShortStroke_masked]

/-! ### A write of a port register, performed at once -/

theorem formOf_low : formOf false .w8 = some .lo := rfl

theorem formOf_high : formOf true .w8 = some .hi := rfl

theorem formOf_word : formOf false .w16 = some .word := rfl

/-- A write that is neither queued nor held has the effect of its register's part, at once (R150). -/
theorem exec_outInstr (r : PortReg) (odd : Bool) (w : Width) (v : Word) (part : RegPart) (s : State)
    (hform : formOf odd w = some part) (hopen : portOpen s .io r odd)
    (hdirect : (queueable (.reg r part) && s.queuing) = false) (hdrained : s.fifo.drained = true) :
    exec (outInstr r odd w v) s = writeReg r part v s := by
  obtain ⟨⟨hreach, halias⟩, hpresent⟩ := hopen
  have htarget : resolve s.cfg s.inputs .io (portAddr r odd) w = .reg r part := by
    rw [resolve_io _ _ r odd w hpresent, regTarget_of_formOf r hform]
  have hwrite := hostAccess_dispatch .io (portAddr r odd) w v s hreach (aliased_of_none _ _ _ halias)
    (by rw [htarget]; nofun) (by rw [htarget]; nofun) (by rw [htarget]; exact hdirect) hdrained
  rw [exec_access, accessOf_outInstr, hwrite, htarget, width_of_formOf hform]
  exact writeReg_masked r part v s

/-- While nothing is queued, a write of any register is performed at once. -/
theorem exec_outInstr_of_writesNow (r : PortReg) {odd : Bool} {w : Width} (v : Word) {part : RegPart} {s : State}
    (hform : formOf odd w = some part) (hnow : writesNow s) (hopen : portOpen s .io r odd) :
    exec (outInstr r odd w v) s = writeReg r part v s := by
  obtain ⟨hqueuing, hdrained⟩ := hnow
  exact exec_outInstr r odd w v part s hform hopen (by rw [hqueuing, Bool.and_false]) hdrained

/-- A register that is never queued waits for an empty FIFO alone (R198). -/
theorem exec_outInstr_of_not_queueable (r : PortReg) {odd : Bool} {w : Width} (v : Word) {part : RegPart} {s : State}
    (hform : formOf odd w = some part) (hkind : queueable (.reg r part) = false) (hdrained : s.fifo.drained = true)
    (hopen : portOpen s .io r odd) : exec (outInstr r odd w v) s = writeReg r part v s :=
  exec_outInstr r odd w v part s hform hopen (by rw [hkind, Bool.false_and]) hdrained

/-- Replacing the low byte of a word keeps its other 24 bits. -/
theorem setByteAt_zero (r : Word) (b : Byte) : setByteAt r 0 b = r.extractLsb' 8 24 ++ b := by
  apply BitVec.eq_of_getLsbD_eq
  intro i hi
  have hmask : ∀ j < 32, (~~~((0xFF : Word) <<< 0)).getLsbD j = decide (8 ≤ j) := by decide
  rw [setByteAt, BitVec.getLsbD_or, BitVec.getLsbD_and, hmask i hi, BitVec.getLsbD_append]
  by_cases hlow : i < 8
  · simp [hlow, hi]
  · have hhigh : 8 ≤ i := Nat.le_of_not_lt hlow
    have hrest : i - 8 < 24 := by omega
    simp [hlow, hhigh, hrest]

end Sys2Proof.Machine

namespace Sys2Proof
open Sys2Proof.Machine

/-- Settles O8: each register is written at once, and its new value is `writeCoord` of the old one. -/
theorem coordinateWrites : Obligations.CoordinateWrites := by
  unfold Obligations.CoordinateWrites
  intro s odd w v part hform hnow new
  have hnew : new = writeCoord part v := by
    funext r
    cases part with
    | lo => exact (setByteAt_zero r _).symm
    | hi => rfl
    | word => rfl
  have hwrite (r : PortReg) := exec_outInstr_of_writesNow r v hform hnow
  rw [hnew]
  exact ⟨hwrite .curX, hwrite .curY, hwrite .curX2, hwrite .curY2, hwrite .destxDiastp, hwrite .destyAxstp,
    hwrite .destx2, hwrite .desty2, hwrite .errTerm⟩

/-- Settles O9: the count is written as `writeCount`, the two mix registers as `writeHalf`. -/
theorem countAndMixWrites : Obligations.CountAndMixWrites := by
  unfold Obligations.CountAndMixWrites
  intro s odd w v part hform hnow half
  have hwrite (r : PortReg) := exec_outInstr_of_writesNow r v hform hnow
  exact ⟨hwrite .majAxisPcnt, hwrite .bkgdMix, hwrite .frgdMix⟩

/-- Settles O11: the word, the low byte and the high byte are the three cases of `writeMultifunc`. -/
theorem multifuncWrites : Obligations.MultifuncWrites := by
  unfold Obligations.MultifuncWrites
  intro s v hnow
  have hwrite {odd : Bool} {w : Width} {part : RegPart} (hform : formOf odd w = some part) :=
    exec_outInstr_of_writesNow .multifunc v hform hnow
  exact ⟨fun hopen => ⟨hwrite formOf_word hopen, hwrite formOf_low hopen⟩, hwrite formOf_high⟩

/-- Settles O12: neither register is queued, so that an empty FIFO is enough for the write to be performed at
once. -/
theorem controlWrites : Obligations.ControlWrites := by
  unfold Obligations.ControlWrites
  intro s v hdrained
  have hsubsys {odd : Bool} {w : Width} {part : RegPart} (hform : formOf odd w = some part) :=
    exec_outInstr_of_not_queueable .subsys v hform rfl hdrained
  have hadvfunc {odd : Bool} {w : Width} {part : RegPart} (hform : formOf odd w = some part) :=
    exec_outInstr_of_not_queueable .advfunc v hform rfl hdrained
  exact ⟨fun hopen => ⟨hsubsys formOf_word hopen, hsubsys formOf_low hopen⟩, hsubsys formOf_high,
    fun hopen => ⟨hadvfunc formOf_word hopen, hadvfunc formOf_low hopen⟩, hadvfunc formOf_high⟩

end Sys2Proof
end

section
/-!
PROOFS. Reads of the packed registers and of `MULTIFUNC` (spec/40_bus_access.md R172, R176).
-/
namespace Sys2Proof.Machine

/-! ### Accesses of a packed register -/

/-- A packed register's offset lies in the mirror of the ports. -/
theorem packedOffset_range (k : PackedReg) : 0x8000 ≤ packedOffset k ∧ packedOffset k < 0x10000 := by
  cases k <;> decide

/-- Where packed registers are in force, a 32-bit access at a packed register's offset reaches it (R117). -/
theorem resolve_packed {s : State} {win : Window} {k : PackedReg} (hopen : packedOpen s win k) :
    resolve s.cfg s.inputs win.space (packedOffset k) .w32 = .packed k := by
  obtain ⟨-, hon, hfind⟩ := hopen
  obtain ⟨hlo, hhi⟩ := packedOffset_range k
  have hwindow : resolveWindow s.cfg true (packedOffset k) .w32 = .packed k := by
    simp [resolveWindow, Nat.not_lt.mpr hlo, hfind]
  cases win with
  | legacy =>
    have hmode : (s.cfg.cap.hasPackedMmio && s.inputs.packedMmioMode) = true := by simpa [packedOn] using hon
    simp only [Window.space, resolve, if_pos hhi, hmode, hwindow]
  | linear => simp only [Window.space, resolve, if_pos hhi, hwindow]

theorem accessOf_packedReadInstr (k : PackedReg) (win : Window) :
    accessOf (packedReadInstr k win) = (win.space, packedOffset k, .read .w32) := by cases k <;> rfl

/-- A read of a packed register that nothing holds returns its fields and changes no register (R176). -/
theorem exec_packedReadInstr (k : PackedReg) {win : Window} {s : State} (hnow : readsNow s)
    (hopen : packedOpen s win k) :
    exec (packedReadInstr k win) s = .next (returnRead .w32 (readPacked k s.regs) s) := by
  have htarget := resolve_packed hopen
  obtain ⟨⟨hreach, halias⟩, -, -⟩ := hopen
  have hread := hostAccess_read win.space (packedOffset k) .w32 s hreach (aliased_of_none _ _ _ halias)
    (handledWhole_of_ne _ _ _ _ _ (by rw [htarget]; nofun)) (by rw [htarget]; nofun) hnow
  rw [exec_access, accessOf_packedReadInstr, hread, htarget]
  rfl

/-- A multifunction entry as a 16-bit value has 0 in bits 15:12. -/
theorem setWidth_entry (x : BitVec 12) : x.setWidth 16 = 0#4 ++ x :=
  BitVec.setWidth_eq_append (by decide)

/-- Two entries in one packed word, each in its half (R117). -/
theorem entries_append (hi lo : BitVec 12) :
    (hi.setWidth 16 ++ lo.setWidth 16 : Word) = 0#4 ++ (hi ++ (0#4 ++ lo)) := by
  rw [setWidth_entry, setWidth_entry]
  exact BitVec.append_assoc

end Sys2Proof.Machine

namespace Sys2Proof
open Sys2Proof.Machine

/-- Settles O19: each read returns `readPacked` of its register. -/
theorem packedReads : Obligations.PackedReads := by
  unfold Obligations.PackedReads
  intro s win hnow ret
  have hread (k : PackedReg) : packedOpen s win k → exec (packedReadInstr k win) s = ret (readPacked k s.regs) :=
    exec_packedReadInstr k hnow
  simp only [← entries_append]
  exact ⟨hread .bkgdColor, hread .frgdColor, hread .wrtMask, hread .rdMask, hread .colorCmp, hread .mix,
    hread .scissorsTl, hread .scissorsBr, hread .pixCntlMisc2, hread .multMiscRdsel⟩

/-- Settles O22: the read returns a part of the selected entry, and the word and the high byte advance the
pointer. -/
theorem multifuncReads : Obligations.MultifuncReads := by
  unfold Obligations.MultifuncReads
  intro s hnow ptr val next
  have hval : val = (s.regs.mf s.regs.readPtr).setWidth 16 := (setWidth_entry _).symm
  have hread {odd : Bool} {w : Width} {part : RegPart} (hform : formOf odd w = some part)
      (hopen : portOpen s .io .multifunc odd) :=
    exec_inInstr .multifunc odd w part s hform hopen hnow
  rw [hval]
  exact ⟨fun hopen => ⟨hread formOf_word hopen, hread formOf_low hopen⟩, hread formOf_high⟩

end Sys2Proof
end

section
/-!
PROOFS. The engine agent's turn: one drain of the FIFO (spec/41_fifo.md R194, R195).
-/
namespace Sys2Proof.Machine

/-! ### The engine's turn (R195) -/

/-- A turn of the engine is a step of the engine agent. -/
theorem step_engine {s : State} {ts : List Turn} (h : s.host.sched = .engine :: ts) :
    step s = engineStep (withSched ts s) := by
  unfold step stepOnce
  rw [h]
  rfl

theorem engineStep_of_pos {s : State} (h : 0 < s.fifo.entries) : engineStep s = drain s := if_pos h

theorem engineStep_of_empty {s : State} (h : s.fifo.entries = 0) : engineStep s = .next s :=
  if_neg (by rw [h]; exact Nat.lt_irrefl 0)

/-! ### The drain (R194) -/

/-- Popping the head of a queue that is not empty leaves one entry fewer, also where the counters wrap (R193). -/
theorem entries_pop {f : Fifo} (h : 0 < f.entries) :
    ({ f with readIdx := f.readIdx + 1 } : Fifo).entries + 1 = f.entries := by
  unfold Fifo.entries at *
  bv_omega

/-- Popping the head empties the queue exactly where it was the last entry. -/
theorem entries_popEntry_eq_zero_iff {s : State} (h : 0 < s.fifo.entries) :
    (popEntry s).fifo.entries = 0 ↔ s.fifo.entries = 1 := by
  have hpop : (popEntry s).fifo.entries + 1 = s.fifo.entries := entries_pop h
  omega

/-- An entry that is applied leaves the FIFO alone. -/
theorem fifo_of_applyEntry {e : FifoEntry} {s t : State} (h : applyEntry e s = .next t) : t.fifo = s.fifo := by
  rcases keeps_applyEntry e s with ⟨t', hnext, hcontext⟩ | ⟨r, hrefused⟩
  · obtain rfl : t' = t := by simpa [hnext] using h
    simp only [contextOf, Prod.mk.injEq] at hcontext
    obtain ⟨-, -, hfifo, -⟩ := hcontext
    exact hfifo
  · simp [hrefused] at h

/-- The end of a drain clears the busy flag and sets bit 3, `FIFO_EMPTY`, where the queue is empty (R405). -/
theorem endDrain_eq (t : State) :
    endDrain t = { t with
      fifo := { t.fifo with busy := false }
      regs := { t.regs with subsysStat :=
        if t.fifo.entries = 0 then t.regs.subsysStat ||| 8#4 else t.regs.subsysStat } } := by
  by_cases h : t.fifo.entries = 0
  · have hempty : endDrain t = raiseIrq fifoEmpty { t with fifo := { t.fifo with busy := false } } := if_pos h
    rw [hempty, if_pos h]
    rfl
  · have hleft : endDrain t = { t with fifo := { t.fifo with busy := false } } := if_neg h
    rw [hleft, if_neg h]

theorem drain_of_applyEntry {s t : State} (h : applyEntry s.fifo.head (popEntry s) = .next t) :
    drain s = .next (endDrain t) := by
  unfold drain
  rw [h]
  rfl

end Sys2Proof.Machine

namespace Sys2Proof
open Sys2Proof.Machine

/-- Settles O35: the entry applied leaves the popped queue as it is, so the queue is empty at the end of the drain
exactly where its head was the last entry. -/
theorem drainStep : Obligations.DrainStep := by
  unfold Obligations.DrainStep
  intro s ts hturn u
  rw [step_engine hturn]
  refine ⟨fun hpos t happly => ?_, fun hempty => engineStep_of_empty hempty⟩
  have hfifo : t.fifo = (popEntry u).fifo := fifo_of_applyEntry happly
  have hlast : t.fifo.entries = 0 ↔ s.fifo.entries = 1 := by
    rw [hfifo]
    exact entries_popEntry_eq_zero_iff (s := u) hpos
  calc engineStep u
      = drain u := engineStep_of_pos hpos
    _ = .next (endDrain t) := drain_of_applyEntry happly
    _ = _ := by rw [endDrain_eq]; simp only [hlast]

end Sys2Proof
end

section
/-!
PROOFS. ROP3 bit by bit (spec/42_pixel_pipeline.md R221). The term of an index is 1 exactly where the three operands
spell that index, so of the eight terms of a code one decides each bit.
-/
namespace Sys2Proof.Machine

/-! ### The index that three operand bits spell -/

/-- The index `4P + 2S + D` of R221, for the operand bits at one position. -/
def ropIndex (p s d : Bool) : Nat := 4 * p.toNat + 2 * s.toNat + d.toNat

theorem ropIndex_lt (p s d : Bool) : ropIndex p s d < 8 := by
  have hp := p.toNat_le
  have hs := s.toNat_le
  have hd := d.toNat_le
  unfold ropIndex
  omega

/-- An index below 8 is the one spelt by three bits exactly where its binary digits are those bits. -/
theorem eq_ropIndex_iff_testBit {j : Nat} (hj : j < 8) (p s d : Bool) :
    j = ropIndex p s d ↔ j.testBit 2 = p ∧ j.testBit 1 = s ∧ j.testBit 0 = d := by
  revert j p s d
  decide

/-! ### One term, and the union of the eight -/

/-- An operand taken as it is or complemented has a 1 exactly where its bit is the wanted one. -/
theorem getLsbD_ite_not {b : Nat} (hb : b < 32) (want : Bool) (x : Word) :
    (if want then x else ~~~x).getLsbD b = decide (want = x.getLsbD b) := by
  cases want <;> simp [hb]

theorem ropTerm_getLsbD {b j : Nat} (hb : b < 32) (hj : j < 8) (code : BitVec 8) (p s d : Word) :
    (ropTerm code j p s d).getLsbD b =
      (code.getLsbD j && decide (j = ropIndex (p.getLsbD b) (s.getLsbD b) (d.getLsbD b))) := by
  unfold ropTerm
  split
  next hcode =>
    rw [BitVec.getLsbD_and, BitVec.getLsbD_and, getLsbD_ite_not hb, getLsbD_ite_not hb, getLsbD_ite_not hb, hcode]
    simp only [eq_ropIndex_iff_testBit hj, Bool.decide_and, Bool.and_assoc, Bool.true_and]
  next hcode => simp [hcode]

theorem ropCode_getLsbD {b : Nat} (hb : b < 32) (code : BitVec 8) (p s d : Word) :
    (ropCode code p s d).getLsbD b =
      code.getLsbD (ropIndex (p.getLsbD b) (s.getLsbD b) (d.getLsbD b)) := by
  have hterm (j : Nat) (hj : j < 8) := ropTerm_getLsbD hb hj code p s d
  simp only [ropCode, BitVec.getLsbD_or, hterm, Nat.reduceLT]
  have hlt := ropIndex_lt (p.getLsbD b) (s.getLsbD b) (d.getLsbD b)
  generalize ropIndex (p.getLsbD b) (s.getLsbD b) (d.getLsbD b) = q at hlt ⊢
  interval_cases q <;> simp

end Sys2Proof.Machine

namespace Sys2Proof
open Sys2Proof.Machine

/-- Settles O42: inside the word the code's bit at the index decides; outside it the pixel mask has no bit. -/
theorem ropFormula : Obligations.RopFormula := by
  unfold Obligations.RopFormula
  intro pm code p s d b
  rw [rop3, BitVec.getLsbD_and, Bool.and_comm]
  by_cases hb : b < 32
  · rw [ropCode_getLsbD hb]
    rfl
  · have hpm : pm.getLsbD b = false := BitVec.getLsbD_of_ge pm b (by omega)
    rw [hpm, Bool.false_and, Bool.false_and]

end Sys2Proof
end

section
/-!
PROOFS. The start of a command, and of a stroke, in any of the three spaces (spec/40_bus_access.md R150, R153 to R155).
-/
namespace Sys2Proof.Machine

/-! ### A write of a port register in any space (R110, R115, R116) -/

/-- A byte or 16-bit access at the address of a port that the windows mirror reaches the port's register: the packed
registers stand at 32-bit accesses alone. -/
theorem resolve_portAddr {s : State} {sp : Space} {r : PortReg} {odd : Bool} {w : Width}
    (hlo : 0x8000 ≤ portAddr r odd) (hopen : portOpen s sp r odd) (hw : w ≠ .w32) :
    resolve s.cfg s.inputs sp (portAddr r odd) w = regTarget r odd w := by
  obtain ⟨-, hpresent⟩ := hopen
  have hhi : portAddr r odd < 0x10000 := Laws.Canonical.port_lt r odd
  have hport := resolvePort_portAddr s.cfg.cap r odd w hpresent
  cases sp with
  | io => exact hport
  | legacyMmio => exact (resolve_mirror s .legacy _ w hlo hhi (absurd · hw)).trans hport
  | newMmio => exact (resolve_mirror s .linear _ w hlo hhi (absurd · hw)).trans hport

/-- While nothing is queued, a write of a register's part takes effect at once, whatever the space (R150). -/
theorem hostAccess_portWrite {s : State} {sp : Space} {r : PortReg} {odd : Bool} {w : Width} {part : RegPart}
    (v : Word) (hlo : 0x8000 ≤ portAddr r odd) (hform : formOf odd w = some part) (hopen : portOpen s sp r odd)
    (hnow : writesNow s) :
    hostAccess sp (portAddr r odd) (.write w v) s = writeReg r part v s := by
  have hw : w ≠ .w32 := by
    rintro rfl
    cases odd <;> cases hform
  have htarget : resolve s.cfg s.inputs sp (portAddr r odd) w = .reg r part := by
    rw [resolve_portAddr hlo hopen hw, regTarget_of_formOf r hform]
  obtain ⟨⟨hreach, halias⟩, -⟩ := hopen
  obtain ⟨hqueuing, hdrained⟩ := hnow
  have hwrite := hostAccess_dispatch sp (portAddr r odd) w v s hreach (aliased_of_none _ _ _ halias)
    (by rw [htarget]; nofun) (by rw [htarget]; nofun) (by rw [hqueuing, Bool.and_false]) hdrained
  rw [hwrite, htarget, width_of_formOf hform]
  exact writeReg_masked r part v s

/-! ### The fields of a `CMD` word (R120, R121) -/

@[simp] theorem cmdClass_cmdWord (cls : BitVec 3) (o : CmdOpts) : cmdClass (cmdWord cls o) = cls :=
  BitVec.extractLsb'_append_eq_left

@[simp] theorem cmdLpn_cmdWord (cls : BitVec 3) (o : CmdOpts) : cmdLpn (cmdWord cls o) = o.lpn := by
  simp only [cmdLpn, cmdWord, BitVec.getLsbD_append]
  simp

/-- Only lines, rectangles and BitBlts take CPU data (R154). -/
theorem takesCpu_of_cmdClass {c : Half} (h1 : cmdClass c ≠ 1) (h2 : cmdClass c ≠ 2) (h6 : cmdClass c ≠ 6) :
    takesCpu c = false := by
  rw [takesCpu, decide_eq_false h1, decide_eq_false h2, decide_eq_false h6]
  exact Bool.and_false _

/-! ### The start of a command (R153, R154) -/

/-- The two bytes of a 16-bit write replace the whole word. -/
theorem writeHalf_bytes (c r : Half) :
    writeHalf .hi (c.setWidth 32 >>> 8) (writeHalf .lo (c.setWidth 32) r) = c := by
  have hhigh : (c.setWidth 32 >>> 8).extractLsb' 0 8 = c.extractLsb' 8 8 :=
    BitVec.extractLsb'_setWidth_of_le (b := c) (start := 8) (len := 8) (w' := 32) (by decide)
  have hlow : (c.setWidth 32).extractLsb' 0 8 = c.extractLsb' 0 8 :=
    BitVec.extractLsb'_setWidth_of_le (by decide)
  simp only [writeHalf, BitVec.extractLsb'_append_eq_right, hhigh, hlow]
  exact (BitVec.extractLsb'_append_extractLsb'_eq_extractLsb' rfl).trans BitVec.extractLsb'_eq_self

/-- A 16-bit write of `CMD`, as far as the start of its operation. -/
theorem latchCmd_writeCmd (c : Half) (s : State) :
    latchCmd (writeCmdHigh (c.setWidth 32 >>> 8) (writeCmdLow (c.setWidth 32) s)) = commandState c s := by
  have hcmd := writeHalf_bytes c s.regs.cmd
  simp only [latchCmd, writeCmdHigh, writeCmdLow, commandState, hcmd]
  rfl

/-- A command that is neither gated nor refused begins its operation in `commandState` (R153, R154). -/
theorem commandWrite_begins {s : State} {sp : Space} {c : Half} (hnow : commandNow s sp)
    (hgate : gate s.cfg.cap (cmdClass c) = true) (hok : refusedCommand s false c = none) :
    commandWrite sp c s = .next (beginOp (commandState c s)) := by
  obtain ⟨hopen, hwrites⟩ := hnow
  have hwrite := hostAccess_portWrite (c.setWidth 32) (by decide) formOf_word hopen hwrites
  have hgate' : gate (commandState c s).cfg.cap (commandState c s).eng.cls = true := hgate
  have hok' : refusedCommand (commandState c s) false (commandState c s).eng.cmd = none := hok
  calc commandWrite sp c s
      = startOp (writeCmdHigh (c.setWidth 32 >>> 8) (writeCmdLow (c.setWidth 32) s)) := hwrite
    _ = .next (beginOp (commandState c s)) := by
        simp only [startOp, latchCmd_writeCmd, hgate', hok', if_true]

/-- An operation that takes no CPU data is run as soon as its class is initialised. -/
theorem beginOp_of_not_takesCpu {s : State} (h : takesCpu (initOp s).eng.cmd = false) :
    beginOp s = runOp (activate (initOp s)) := if_neg (by simp [h])

end Sys2Proof.Machine

namespace Sys2Proof
open Sys2Proof.Machine

/-- Settles O44: the NOP class latches nothing and finishes at once. -/
theorem nopCommand : Obligations.NopCommand := by
  unfold Obligations.NopCommand
  intro s sp o hnow hok
  have hclass : cmdClass (cmdWord 0 o) = 0 := cmdClass_cmdWord 0 o
  have hgate : gate s.cfg.cap (cmdClass (cmdWord 0 o)) = true := by rw [hclass]; rfl
  have hcls : (commandState (cmdWord 0 o) s).eng.cls = 0 := hclass
  have hinit : initOp (commandState (cmdWord 0 o) s) = commandState (cmdWord 0 o) s := by
    rw [initOp, hcls]
    rfl
  have hcpu : takesCpu (cmdWord 0 o) = false := by
    apply takesCpu_of_cmdClass <;> rw [hclass] <;> decide
  have hrun : runOp (activate (commandState (cmdWord 0 o) s)) = nopRun (activate (commandState (cmdWord 0 o) s)) := by
    rw [runOp, activate_eng, hcls]
    rfl
  calc exec (.nop sp o) s
      = .next (beginOp (commandState (cmdWord 0 o) s)) := commandWrite_begins hnow hgate hok
    _ = .next (nopRun (activate (commandState (cmdWord 0 o) s))) := by
        rw [beginOp_of_not_takesCpu (by rw [hinit]; exact hcpu), hinit, hrun]
    _ = _ := rfl

end Sys2Proof
end

section
/-!
PROOFS. The visited pixels of an operation without CPU data (spec/42_pixel_pipeline.md R210), and the short strokes
(spec/43_lines.md R252).
-/
namespace Sys2Proof.Machine

/-! ### What the visited pixels change (R210) -/

/-- One state comes from another by drawing without CPU data: VRAM, the byte-doubling phase and the counter of free
values alone may differ. -/
def OnlyDrew (s t : State) : Prop :=
  ∃ m ph n, t = { s with vram := m, eng := { s.eng with phase16 := ph }, draws := n }

theorem OnlyDrew.refl (s : State) : OnlyDrew s s := ⟨s.vram, s.eng.phase16, s.draws, rfl⟩

theorem OnlyDrew.trans {s t u : State} (hst : OnlyDrew s t) (htu : OnlyDrew t u) : OnlyDrew s u := by
  obtain ⟨m, ph, n, rfl⟩ := hst
  obtain ⟨m', ph', n', rfl⟩ := htu
  exact ⟨m', ph', n', rfl⟩

theorem OnlyDrew.cmd_eq {s t : State} (h : OnlyDrew s t) : t.eng.cmd = s.eng.cmd := by
  obtain ⟨m, ph, n, rfl⟩ := h
  rfl

/-- A pixel of an operation that takes no CPU data consumes none (R212). -/
theorem onlyDrew_pixel {s : State} (x y : Int) (v p : Option Word) (sup : Bool) (h : takesCpu s.eng.cmd = false) :
    OnlyDrew s (pixel x y v p sup s) := by
  refine ⟨s.pixelVram x y v p sup, s.pixelEng.phase16, s.draws + 3, ?_⟩
  rw [pixel, pixelEng_rest]
  simp [State.pixelEng, State.takesCpuBits, State.takesCpuPix, h]

theorem onlyDrew_visitAll (ps : List (Int × Int)) {s : State} (h : takesCpu s.eng.cmd = false) :
    OnlyDrew s (visitAll plain ps s) := by
  induction ps generalizing s with
  | nil => exact .refl s
  | cons p ps ih =>
    have hp : OnlyDrew s (plain p s) := onlyDrew_pixel p.1 p.2 none none false h
    exact hp.trans (ih (by rwa [hp.cmd_eq]))

/-- A visited pixel changes no byte outside itself (R210, R81). -/
theorem sameOutside_pixel (x y : Int) (v p : Option Word) (sup : Bool) (s : State) :
    sameOutside s (pixel x y v p sup s) [(x, y)] := by
  intro a ha
  have hout : ∀ k, k < pixelBytes s.cfg.depth →
      a ≠ byteAddr s.cfg (pixAddr s.cfg s.cfg.destBase (reduce s.cfg x) (reduce s.cfg y)) k :=
    fun k hk e => ha (x, y) List.mem_cons_self ⟨k, hk, e⟩
  rw [pixel_vram]
  rcases pixelVram_cases s x y v p sup with e | ⟨w, e⟩ <;> rw [e]
  exact read_writePixel_other _ _ _ _ _ hout

/-- Pixels visited one after another change no byte outside all of them. -/
theorem sameOutside_cons {s t u : State} {p : Int × Int} {ps : List (Int × Int)} (hcfg : t.cfg = s.cfg)
    (hst : sameOutside s t [p]) (htu : sameOutside t u ps) : sameOutside s u (p :: ps) := by
  intro a ha
  have hp : ∀ q ∈ [p], ¬ isPixelByte s.cfg q a := fun q hq => ha q (by rw [List.mem_singleton.mp hq]; simp)
  have hps : ∀ q ∈ ps, ¬ isPixelByte t.cfg q a := fun q hq => by
    rw [hcfg]
    exact ha q (List.mem_cons_of_mem p hq)
  exact (htu a hps).trans (hst a hp)

theorem sameOutside_visitAll (ps : List (Int × Int)) (s : State) : sameOutside s (visitAll plain ps s) ps := by
  induction ps generalizing s with
  | nil => exact fun _ _ => rfl
  | cons p ps ih =>
    exact sameOutside_cons (t := plain p s) rfl (sameOutside_pixel p.1 p.2 none none false s) (ih (plain p s))

/-! ### The walk of a stroke (R252) -/

/-- The end of a stroke: its last position is stored and `GE_DONE` raised. -/
def strokeDone (x y : Int) (s : State) : State :=
  raiseIrq geDone { s with regs := { s.regs with curX := storePos s.cfg x, curY := storePos s.cfg y } }

theorem rayPixels_succ (d : BitVec 3) (n : Nat) (x y : Int) :
    rayPixels d (n + 1) x y = (x, y) :: rayPixels d n (x + ddx d) (y + ddy d) := by
  have hshift (a b : Int) (k : Nat) : a + (k + 1 : Nat) * b = a + b + k * b := by push_cast; ring
  simp only [rayPixels, List.range_succ_eq_map (n := n + 1), List.map_cons, List.map_map, Function.comp_def,
    Nat.succ_eq_add_one, hshift]
  simp

/-- A stroke visits the pixels of its ray and ends on the last of them. -/
theorem strokeWalk_eq (d : BitVec 3) (n : Nat) (x y : Int) (s : State) :
    strokeWalk d n x y s =
      strokeDone (x + n * ddx d) (y + n * ddy d) (visitAll plain (rayPixels d n x y) s) := by
  induction n generalizing x y s with
  | zero => simp [strokeWalk, strokeDone, rayPixels, visitAll, plain]
  | succ n ih =>
    have hshift (a b : Int) : a + b + n * b = a + (n + 1 : Nat) * b := by push_cast; ring
    rw [strokeWalk, ih, rayPixels_succ, hshift, hshift]
    rfl

/-! ### The stored byte of a stroke (R155) -/

/-- The state with a new `SHORT_STROKE` register. -/
def storeStroke (v : Half) (s : State) : State := mapRegs (fun r => { r with shortStroke := v }) s

/-- Only a ROPBlt's pixels may depend on `SHORT_STROKE` (R321). -/
theorem pixel_storeStroke (v : Half) (x y : Int) {s : State} (h : s.eng.cls = 0) :
    pixel x y none none false (storeStroke v s) = storeStroke v (pixel x y none none false s) := by
  have hresult (m : Half) (src d : Word) :
      (storeStroke v s).pixelResult m none src d = s.pixelResult m none src d := by
    have hcls : (storeStroke v s).eng.cls = 0 := h
    rw [State.pixelResult, State.pixelResult, hcls, h]
    rfl
  have hvram : (storeStroke v s).pixelVram x y none none false = s.pixelVram x y none none false := by
    simp only [State.pixelVram, hresult]
    rfl
  rw [pixel, hvram]
  rfl

theorem visitAll_storeStroke (v : Half) (ps : List (Int × Int)) {s : State} (h : s.eng.cls = 0) :
    visitAll plain ps (storeStroke v s) = storeStroke v (visitAll plain ps s) := by
  induction ps generalizing s with
  | nil => rfl
  | cons p ps ih =>
    have hp : plain p (storeStroke v s) = storeStroke v (plain p s) := pixel_storeStroke v p.1 p.2 h
    have hcls : (plain p s).eng.cls = 0 := h
    calc visitAll plain (p :: ps) (storeStroke v s)
        = visitAll plain ps (plain p (storeStroke v s)) := rfl
      _ = storeStroke v (visitAll plain ps (plain p s)) := by rw [hp, ih hcls]

/-! ### A stroke under class NOP (R155) -/

/-- The fields of a stroke byte (R126). -/
theorem strokeByte_fields (dir : BitVec 3) (draw : Bool) (len : BitVec 4) :
    (strokeByte dir draw len).extractLsb' 5 3 = dir ∧ (strokeByte dir draw len).getLsbD 4 = draw ∧
      (strokeByte dir draw len).extractLsb' 0 4 = len := by
  revert dir draw len
  decide

theorem strokeCmd_strokeByte (c : Half) (dir : BitVec 3) (draw : Bool) (len : BitVec 4) :
    strokeCmd c (strokeByte dir draw len) = c.extractLsb' 5 11 ++ (BitVec.ofBool draw ++ c.extractLsb' 0 4) := by
  obtain ⟨-, hdraw, -⟩ := strokeByte_fields dir draw len
  rw [strokeCmd, hdraw]

/-- A stroke walks from the current position in its direction, for its length (R252). -/
theorem strokeRun_strokeByte (dir : BitVec 3) (draw : Bool) (len : BitVec 4) (s : State) :
    strokeRun (strokeByte dir draw len) s =
      strokeDone (coord s.cfg s.regs.curX + len.toNat * ddx dir) (coord s.cfg s.regs.curY + len.toNat * ddy dir)
        (visitAll plain (rayPixels dir len.toNat (coord s.cfg s.regs.curX) (coord s.cfg s.regs.curY))
          (strokeInit (strokeByte dir draw len) s)) := by
  obtain ⟨hdir, -, hlen⟩ := strokeByte_fields dir draw len
  rw [strokeRun, strokeWalk_eq, hdir, hlen]

/-- The `SHORT_STROKE` register with a byte stored at its low or its high half (R155). -/
def strokeHalf (hi : Bool) (b : Byte) (r : Half) : Half :=
  if hi then b ++ r.extractLsb' 0 8 else r.extractLsb' 8 8 ++ b

/-- A stroke's byte write stores the byte and draws the stroke (R150, R155). -/
theorem strokeWrite_eq {s : State} {sp : Space} {hi : Bool} (b : Byte) (hopen : portOpen s sp .shortStroke hi)
    (hnow : writesNow s) :
    strokeWrite sp hi b s = stroke b (storeStroke (strokeHalf hi b s.regs.shortStroke) s) := by
  have hbyte : (b.setWidth 32).setWidth 8 = b := BitVec.setWidth_setWidth_of_le b (by decide)
  have hlow : (b.setWidth 32).extractLsb' 0 8 = b := hbyte
  cases hi with
  | false =>
    have hwrite := hostAccess_portWrite (b.setWidth 32) (by decide) formOf_low hopen hnow
    calc strokeWrite sp false b s
        = writeStrokeByte .lo ((b.setWidth 32).setWidth 8) s := hwrite
      _ = stroke b (storeStroke (strokeHalf false b s.regs.shortStroke) s) := by
          simp only [writeStrokeByte, writeHalf, hbyte, hlow]
          rfl
  | true =>
    have hwrite := hostAccess_portWrite (b.setWidth 32) (by decide) formOf_high hopen hnow
    calc strokeWrite sp true b s
        = writeStrokeByte .hi ((b.setWidth 32).setWidth 8) s := hwrite
      _ = stroke b (storeStroke (strokeHalf true b s.regs.shortStroke) s) := by
          simp only [writeStrokeByte, writeHalf, hbyte, hlow]
          rfl

/-- A stroke that is not refused draws while the command class is NOP (R155, R252). -/
theorem stroke_eq {b : Byte} {s : State} (hcls : cmdClass s.regs.cmd = 0)
    (hok : refusedCommand s true (strokeCmd s.regs.cmd b) = none) : stroke b s = .next (strokeRun b s) := by
  simp only [stroke, ssv, hok, if_pos hcls]

/-- The command a stroke draws with is of class NOP where the `CMD` register is. -/
theorem cmdClass_strokeCmd (c : Half) (b : Byte) : cmdClass (strokeCmd c b) = cmdClass c := by
  have happ : (strokeCmd c b).extractLsb' 13 3 = (c.extractLsb' 5 11).extractLsb' 8 3 :=
    BitVec.extractLsb'_append_eq_of_le (by decide)
  rw [cmdClass, happ]
  apply BitVec.eq_of_getLsbD_eq
  intro i hi
  have hin : 8 + i < 11 := by omega
  simp only [cmdClass, BitVec.getLsbD_extractLsb', hi, hin, decide_true, Bool.true_and, ← Nat.add_assoc,
    Nat.reduceAdd]

end Sys2Proof.Machine

namespace Sys2Proof
open Sys2Proof.Machine

/-- Settles O47: the byte is stored first, which no pixel of the stroke depends on; the stroke then visits its ray and
stores its end. -/
theorem shortStrokeCommand : Obligations.ShortStrokeCommand := by
  unfold Obligations.ShortStrokeCommand
  intro s sp hi dir draw len b c hopen hnow hclass hok x y u
  have hc : strokeCmd s.regs.cmd b = c := strokeCmd_strokeByte s.regs.cmd dir draw len
  let v := strokeHalf hi b s.regs.shortStroke
  let ps := rayPixels dir len.toNat x y
  have hcpu : takesCpu u.eng.cmd = false := by
    have hcls : cmdClass c = 0 := by rw [← hc, cmdClass_strokeCmd, hclass]
    apply takesCpu_of_cmdClass <;> rw [hcls] <;> decide
  have hexec : exec (.ssv sp hi dir draw len) s =
      .next (strokeDone (x + len.toNat * ddx dir) (y + len.toNat * ddy dir)
        (storeStroke v (visitAll plain ps u))) := by
    have hinit : strokeInit b (storeStroke v s) = storeStroke v u := by
      simp only [strokeInit, storeStroke, mapRegs_regs, hc]
      rfl
    have hok' : refusedCommand (storeStroke v s) true (strokeCmd s.regs.cmd b) = none := by rwa [hc]
    calc exec (.ssv sp hi dir draw len) s
        = stroke b (storeStroke v s) := strokeWrite_eq b hopen hnow
      _ = .next (strokeRun b (storeStroke v s)) := stroke_eq hclass hok'
      _ = .next (strokeDone (x + len.toNat * ddx dir) (y + len.toNat * ddy dir)
            (visitAll plain ps (strokeInit b (storeStroke v s)))) :=
          congrArg Host.Outcome.next (strokeRun_strokeByte dir draw len (storeStroke v s))
      _ = _ := by rw [hinit, visitAll_storeStroke v ps rfl]
  have houtside := sameOutside_visitAll ps u
  obtain ⟨m, ph, n, hdrew⟩ := onlyDrew_visitAll ps hcpu
  refine ⟨_, hexec, rfl, ?_⟩
  rw [hdrew] at houtside ⊢
  exact ⟨rfl, rfl, rfl, rfl, rfl, rfl, rfl, rfl, ⟨rfl, rfl, rfl, rfl⟩, houtside⟩

end Sys2Proof
end

section
/-!
PROOFS. The two-point line (spec/43_lines.md R265). Its error term stays in a band in which every step moves along the
major axis; at the last step the band holds one position of the minor axis alone, the end point's.
-/
namespace Sys2Proof.Machine

/-! ### The steps of a walk -/

theorem after_eq_iterate (step : Int × Int × Int → Int × Int × Int) (n : Nat) (p : Int × Int × Int) :
    after step n p = step^[n] p := by
  induction n generalizing p with
  | zero => rfl
  | succ n ih => exact ih (step p)

theorem after_succ (step : Int × Int × Int → Int × Int × Int) (n : Nat) (p : Int × Int × Int) :
    after step (n + 1) p = step (after step n p) := by
  simp only [after_eq_iterate, Function.iterate_succ_apply']

/-! ### The symmetric Bresenham along its major axis -/

/-- The walk after `k` steps where `x` is the major axis: it has made `k` steps in `x` and `b` in `y`, and its error
term lies in the band. -/
def InBand (dx dy sx sy x0 y0 : Int) (k : Nat) (p : Int × Int × Int) : Prop :=
  ∃ b : Int, p = (x0 + k * sx, y0 + b * sy, dx - dy - k * dy + b * dx) ∧
    -dy < 2 * p.2.2 ∧ 2 * p.2.2 < 3 * dx - 2 * dy

/-- Inside the band every step moves along the major axis, and the band is kept. -/
theorem inBand_symmetric {dx dy sx sy x0 y0 : Int} {k : Nat} {p : Int × Int × Int} (hdy : 0 ≤ dy) (hdx : dy ≤ dx)
    (h : InBand dx dy sx sy x0 y0 k p) : InBand dx dy sx sy x0 y0 (k + 1) (symmetric dx dy sx sy p) := by
  obtain ⟨b, rfl, hlo, hhi⟩ := h
  have hx (a m : Int) : a + k * m + m = a + (k + 1 : Nat) * m := by push_cast; ring
  dsimp only at hlo hhi
  by_cases hy : 2 * (dx - dy - k * dy + b * dx) < dx
  · refine ⟨b + 1, ?_, ?_⟩
    · simp only [symmetric, if_pos hlo, if_pos hy, hx]
      congr 2 <;> push_cast <;> ring
    · simp only [symmetric, if_pos hlo, if_pos hy]
      omega
  · refine ⟨b, ?_, ?_⟩
    · simp only [symmetric, if_pos hlo, if_neg hy, hx]
      congr 2; push_cast; ring
    · simp only [symmetric, if_pos hlo, if_neg hy]
      omega

theorem inBand_after {dx dy sx sy x0 y0 : Int} (hdy : 0 ≤ dy) (hdx : dy ≤ dx) (hpos : 0 < dx) (k : Nat) :
    InBand dx dy sx sy x0 y0 k (after (symmetric dx dy sx sy) k (x0, y0, dx - dy)) := by
  induction k with
  | zero => exact ⟨0, by simp [after], by dsimp only [after]; omega, by dsimp only [after]; omega⟩
  | succ k ih =>
    rw [after_succ]
    exact inBand_symmetric hdy hdx ih

/-- After `dx` steps the band holds one position of the minor axis. -/
theorem inBand_end {dx : Nat} {dy sx sy x0 y0 : Int} {p : Int × Int × Int} (hdy : 0 ≤ dy)
    (h : InBand dx dy sx sy x0 y0 dx p) : p.1 = x0 + dx * sx ∧ p.2.1 = y0 + dy * sy := by
  obtain ⟨b, rfl, hlo, hhi⟩ := h
  dsimp only at hlo hhi
  have hb : b = dy := by
    have herr : (dx : Int) - dy - dx * dy + b * dx = dx * (1 + b - dy) - dy := by ring
    rw [herr] at hlo hhi
    have hmin : 0 < 1 + b - dy := by
      by_contra hneg
      nlinarith
    have hmax : 1 + b - dy < 2 := by
      by_contra hneg
      nlinarith
    omega
  rw [hb]
  exact ⟨rfl, rfl⟩

/-- `x` and `y` exchanged. -/
def swapAxes (p : Int × Int × Int) : Int × Int × Int := (p.2.1, p.1, -p.2.2)

/-- The step treats the two axes alike. -/
theorem symmetric_swapAxes (dx dy sx sy : Int) (p : Int × Int × Int) :
    symmetric dy dx sy sx (swapAxes p) = swapAxes (symmetric dx dy sx sy p) := by
  have hx : (2 * -p.2.2 < dy) = (-dy < 2 * p.2.2) := by rw [eq_iff_iff]; omega
  have hy : (-dx < 2 * -p.2.2) = (2 * p.2.2 < dx) := by rw [eq_iff_iff]; omega
  simp only [symmetric, swapAxes, hx, hy]
  congr 2
  ring

theorem after_swapAxes (dx dy sx sy : Int) (n : Nat) (p : Int × Int × Int) :
    after (symmetric dy dx sy sx) n (swapAxes p) = swapAxes (after (symmetric dx dy sx sy) n p) := by
  have hcomm : Function.Semiconj swapAxes (symmetric dx dy sx sy) (symmetric dy dx sy sx) := fun q =>
    (symmetric_swapAxes dx dy sx sy q).symm
  rw [after_eq_iterate, after_eq_iterate]
  exact (hcomm.iterate_right n p).symm

/-! ### The end of the walk -/

/-- A walk from a start, by `dx` in `x` and `dy` in `y` in the directions `sx` and `sy`, stands at its end after
`n` steps and not before. -/
def EndsAfter (dx dy sx sy x0 y0 : Int) (n : Nat) : Prop :=
  ∀ k ≤ n, ((after (symmetric dx dy sx sy) k (x0, y0, dx - dy)).1 = x0 + dx * sx ∧
    (after (symmetric dx dy sx sy) k (x0, y0, dx - dy)).2.1 = y0 + dy * sy) ↔ k = n

/-- Before its last step a walk is still short of the end along its major axis. -/
theorem endsAfter_of_major {dx dy : Nat} {sx sy : Int} (x0 y0 : Int) (hsx : sx ≠ 0) (h : dy ≤ dx) :
    EndsAfter dx dy sx sy x0 y0 dx := by
  intro k hk
  rcases Nat.eq_zero_or_pos dx with hzero | hpos
  · obtain rfl : dy = 0 := by omega
    obtain rfl : k = 0 := by omega
    simp [after, hzero]
  · have hband := inBand_after (sx := sx) (sy := sy) (x0 := x0) (y0 := y0) (Int.natCast_nonneg dy)
      (Int.ofNat_le.mpr h) (Int.natCast_pos.mpr hpos) k
    constructor
    · rintro ⟨hx, -⟩
      obtain ⟨b, hp, -⟩ := hband
      rw [hp] at hx
      simpa [hsx] using hx
    · rintro rfl
      exact inBand_end (Int.natCast_nonneg dy) hband

/-- The longer of the two differences is the number of steps (R265). -/
theorem endsAfter_max (dx dy : Nat) {sx sy : Int} (x0 y0 : Int) (hsx : sx ≠ 0) (hsy : sy ≠ 0) :
    EndsAfter dx dy sx sy x0 y0 (max dx dy) := by
  rcases Nat.le_total dy dx with h | h
  · rw [Nat.max_eq_left h]
    exact endsAfter_of_major x0 y0 hsx h
  · rw [Nat.max_eq_right h]
    intro k hk
    have hswap := after_swapAxes dy dx sy sx k (y0, x0, (dy : Int) - dx)
    have hstart : swapAxes (y0, x0, (dy : Int) - dx) = (x0, y0, (dx : Int) - dy) := by simp [swapAxes]
    rw [hstart] at hswap
    rw [hswap, swapAxes, and_comm]
    exact endsAfter_of_major y0 x0 hsy h k hk

/-! ### The pixels of a line -/

theorem walkPixels_succ (step : Int × Int × Int → Int × Int × Int) (n : Nat) (p : Int × Int × Int) :
    walkPixels step (n + 1) p = (p.1, p.2.1) :: walkPixels step n (step p) := by
  simp only [walkPixels, List.range_succ_eq_map (n := n + 1), List.map_cons, List.map_map]
  rfl

theorem visitLine_cons {ps : List (Int × Int)} (lpn : Bool) (p : Int × Int) (s : State) (h : ps ≠ []) :
    visitLine lpn (p :: ps) s = visitLine lpn ps (plain p s) := by
  cases ps with
  | nil => exact absurd rfl h
  | cons q ps => rfl

theorem walkPixels_ne_nil (step : Int × Int × Int → Int × Int × Int) (n : Nat) (p : Int × Int × Int) :
    walkPixels step n p ≠ [] := by
  simp [walkPixels]

theorem onlyDrew_visitLine (lpn : Bool) (ps : List (Int × Int)) {s : State} (h : takesCpu s.eng.cmd = false) :
    OnlyDrew s (visitLine lpn ps s) := by
  induction ps, s using visitLine.induct with
  | case1 s => exact .refl s
  | case2 p s => exact onlyDrew_pixel p.1 p.2 none none lpn h
  | case3 p q ps s ih =>
    have hp : OnlyDrew s (plain p s) := onlyDrew_pixel p.1 p.2 none none false h
    exact hp.trans (ih (by rwa [hp.cmd_eq]))

theorem sameOutside_visitLine (lpn : Bool) (ps : List (Int × Int)) (s : State) :
    sameOutside s (visitLine lpn ps s) ps := by
  induction ps, s using visitLine.induct with
  | case1 s => exact fun _ _ => rfl
  | case2 p s => exact sameOutside_pixel p.1 p.2 none none lpn s
  | case3 p q ps s ih =>
    exact sameOutside_cons (t := plain p s) rfl (sameOutside_pixel p.1 p.2 none none false s) ih

/-- A change of state that no visited pixel depends on or undoes may be made before or after a line's pixels. -/
theorem visitLine_comm (f : State → State)
    (hf : ∀ x y sup u, pixel x y none none sup (f u) = f (pixel x y none none sup u)) (lpn : Bool)
    (ps : List (Int × Int)) (s : State) : visitLine lpn ps (f s) = f (visitLine lpn ps s) := by
  induction ps, s using visitLine.induct with
  | case1 s => rfl
  | case2 p s => exact hf p.1 p.2 lpn s
  | case3 p q ps s ih =>
    have hp : plain p (f s) = f (plain p s) := hf p.1 p.2 false s
    rw [visitLine, hp, ih]
    rfl

/-! ### The walk of the machine (R265) -/

/-- The state with the walk of a two-point line at a position and error term. -/
def placed (p : Int × Int × Int) (s : State) : State :=
  { s with eng := { s.eng with plX := p.1, plY := p.2.1, plErr := p.2.2 } }

/-- The step of the two-point line that a working state has latched. -/
def Eng.polylineNext (e : Eng) : Int × Int × Int → Int × Int × Int := symmetric e.plDx e.plDy e.plSx e.plSy

theorem polylineAdvance_placed (p : Int × Int × Int) (s : State) :
    polylineAdvance (placed p s) = placed (s.eng.polylineNext p) s := by
  simp only [polylineAdvance, Eng.polylineStep, decide_eq_true_eq]
  rfl

theorem polylineLast_placed (p : Int × Int × Int) (s : State) :
    polylineLast (placed p s) = true ↔ p.1 = s.eng.plX1 ∧ p.2.1 = s.eng.plY1 := by
  rw [polylineLast, Bool.and_eq_true, decide_eq_true_iff, decide_eq_true_iff]
  rfl

/-- One pixel of the walk: the last one ends it, and it alone is suppressed, where last-pixel-null is honoured (R255,
R265). -/
theorem polylineWalk_succ (fuel : Nat) (p : Int × Int × Int) {s : State} (hcpu : takesCpu s.eng.cmd = false) :
    runWalk polylineLast polylineVisit polylineAdvance polylineFinish (fuel + 1) (placed p s) =
      if polylineLast (placed p s) then
        polylineFinish (placed p (pixel p.1 p.2.1 none none (s.cfg.lpnHonoured && cmdLpn s.eng.cmd) s))
      else runWalk polylineLast polylineVisit polylineAdvance polylineFinish fuel
        (placed (s.eng.polylineNext p) (plain (p.1, p.2.1) s)) := by
  have hdata : (placed p s).hasData = true := hasData_of_not_takesCpu _ hcpu
  have hkeep : polylineLast (polylineVisit (placed p s)) = polylineLast (placed p s) := rfl
  have hvisit : polylineVisit (placed p s) = placed p (pixel p.1 p.2.1 none none
      (polylineLast (placed p s) && s.cfg.lpnHonoured && cmdLpn s.eng.cmd) s) := rfl
  rw [runWalk_step _ _ _ _ _ _ hdata, hkeep, hvisit, polylineAdvance_placed]
  cases polylineLast (placed p s) <;> rfl

/-- A walk that stands at its end after `n` steps, and not before, visits the pixels of these steps. -/
theorem polylineWalk_eq {n fuel : Nat} {p : Int × Int × Int} {s : State} (hfuel : n ≤ fuel)
    (hcpu : takesCpu s.eng.cmd = false)
    (hend : ∀ k ≤ n, polylineLast (placed (after s.eng.polylineNext k p) s) = true ↔ k = n) :
    runWalk polylineLast polylineVisit polylineAdvance polylineFinish (fuel + 1) (placed p s) =
      polylineFinish (placed (after s.eng.polylineNext n p)
        (visitLine (s.cfg.lpnHonoured && cmdLpn s.eng.cmd) (walkPixels s.eng.polylineNext n p) s)) := by
  rw [polylineWalk_succ fuel p hcpu]
  induction n generalizing fuel p s with
  | zero =>
    have hlast : polylineLast (placed p s) = true := (hend 0 le_rfl).mpr rfl
    exact if_pos hlast
  | succ n ih =>
    obtain ⟨fuel, rfl⟩ : ∃ m, fuel = m + 1 := ⟨fuel - 1, by omega⟩
    have hmore : ¬ polylineLast (placed p s) = true := fun h =>
      absurd ((hend 0 (Nat.zero_le _)).mp h) (Nat.succ_ne_zero n).symm
    have hcpu' : takesCpu (plain (p.1, p.2.1) s).eng.cmd = false := hcpu
    have hrest : ∀ k ≤ n, polylineLast (placed (after s.eng.polylineNext k (s.eng.polylineNext p))
        (plain (p.1, p.2.1) s)) = true ↔ k = n := fun k hk =>
      (hend (k + 1) (Nat.succ_le_succ hk)).trans Nat.succ_inj
    rw [if_neg hmore, polylineWalk_succ fuel _ hcpu', walkPixels_succ,
      visitLine_cons _ _ _ (walkPixels_ne_nil _ _ _)]
    exact ih (Nat.le_of_succ_le_succ hfuel) hcpu' hrest

/-- Position and error term of the walk in a working state. -/
def Eng.polylinePlace (e : Eng) : Int × Int × Int := (e.plX, e.plY, e.plErr)

/-- The run of a line from its latched place, where the walk stands at the latched end point after `n` steps, and not
before. -/
theorem polylineRun_eq {n : Nat} {s : State} (hfuel : n ≤ (s.eng.plDx + s.eng.plDy).toNat)
    (hcpu : takesCpu s.eng.cmd = false)
    (hend : ∀ k ≤ n, ((after s.eng.polylineNext k s.eng.polylinePlace).1 = s.eng.plX1 ∧
      (after s.eng.polylineNext k s.eng.polylinePlace).2.1 = s.eng.plY1) ↔ k = n) :
    polylineRun s = polylineFinish (placed (after s.eng.polylineNext n s.eng.polylinePlace)
      (visitLine (s.cfg.lpnHonoured && cmdLpn s.eng.cmd) (walkPixels s.eng.polylineNext n s.eng.polylinePlace) s)) :=
  polylineWalk_eq (p := s.eng.polylinePlace) hfuel hcpu fun k hk => (polylineLast_placed _ _).trans (hend k hk)

/-! ### The start of the line -/

/-- The line begun: both end points latched and the operation active. -/
def polylineBegun (s : State) : State := activate (polylineInit s)

theorem visitLine_polylineBegun (lpn : Bool) (ps : List (Int × Int)) (s : State) :
    visitLine lpn ps (polylineBegun s) = polylineBegun (visitLine lpn ps s) :=
  visitLine_comm polylineBegun (fun _ _ _ _ => rfl) lpn ps s

/-- A command of class 5 is a two-point line (R121, R265). -/
theorem beginOp_polyline {s : State} (hcls : s.eng.cls = 5) (hcpu : takesCpu s.eng.cmd = false) :
    beginOp s = polylineRun (polylineBegun s) := by
  have hinit : initOp s = polylineInit s := by
    rw [initOp, hcls]
    rfl
  have hrun : runOp (polylineBegun s) = polylineRun (polylineBegun s) := by
    have hcls' : (polylineBegun s).eng.cls = 5 := hcls
    rw [runOp, hcls']
    rfl
  rw [beginOp_of_not_takesCpu (by rw [hinit]; exact hcpu), hinit]
  exact hrun

theorem direction_ne_zero (a b : Int) : (if a ≤ b then (1 : Int) else -1) ≠ 0 := by
  split <;> decide

/-- A distance, taken in the direction of the end, leads to the end. -/
theorem add_natAbs_mul_direction (a b : Int) : a + ((b - a).natAbs : Int) * (if a ≤ b then 1 else -1) = b := by
  split <;> omega

end Sys2Proof.Machine

namespace Sys2Proof
open Sys2Proof.Machine

/-- Settles O51: the walk stands at the end point after the longer difference's steps and not before, so the machine's
loop stops there. -/
theorem polylineCommand : Obligations.PolylineCommand := by
  unfold Obligations.PolylineCommand
  intro s sp o c hnow hchip hok x0 y0 x1 y1 n next start
  have hends : EndsAfter (x1 - x0).natAbs (y1 - y0).natAbs (if x0 ≤ x1 then 1 else -1) (if y0 ≤ y1 then 1 else -1)
      x0 y0 n := endsAfter_max _ _ x0 y0 (direction_ne_zero x0 x1) (direction_ne_zero y0 y1)
  rw [EndsAfter, add_natAbs_mul_direction, add_natAbs_mul_direction] at hends
  obtain ⟨hx, hy⟩ := (hends n le_rfl).mpr rfl
  refine ⟨hx, hy, ?_⟩
  have hclass : cmdClass c = 5 := cmdClass_cmdWord 5 o
  have hlpn : cmdLpn c = o.lpn := cmdLpn_cmdWord 5 o
  have hcpu : takesCpu c = false := by
    apply takesCpu_of_cmdClass <;> rw [hclass] <;> decide
  have hgate : gate s.cfg.cap (cmdClass c) = true := by rw [hclass]; exact hchip
  have hexec : exec (.polyline sp o) s = .next (polylineFinish (placed (after next n start) (polylineBegun
      (visitLine (s.cfg.lpnHonoured && o.lpn) (walkPixels next n start) (commandState c s))))) := by
    have hnext : (polylineBegun (commandState c s)).eng.polylineNext = next := rfl
    have hstart : (polylineBegun (commandState c s)).eng.polylinePlace = start := rfl
    have hfuel : n ≤ ((polylineBegun (commandState c s)).eng.plDx +
        (polylineBegun (commandState c s)).eng.plDy).toNat := by
      show n ≤ (((x1 - x0).natAbs : Int) + (y1 - y0).natAbs).toNat
      omega
    have hwalk := polylineRun_eq hfuel hcpu (by rw [hnext, hstart]; exact hends)
    rw [hnext, hstart, visitLine_polylineBegun] at hwalk
    calc exec (.polyline sp o) s
        = .next (beginOp (commandState c s)) := commandWrite_begins hnow hgate hok
      _ = .next (polylineRun (polylineBegun (commandState c s))) := by
        rw [beginOp_polyline (s := commandState c s) hclass hcpu]
      _ = _ := by rw [hwalk, ← hlpn]; rfl
  have houtside := sameOutside_visitLine (s.cfg.lpnHonoured && o.lpn) (walkPixels next n start) (commandState c s)
  obtain ⟨m, ph, d, hdrew⟩ :=
    onlyDrew_visitLine (s.cfg.lpnHonoured && o.lpn) (walkPixels next n start) (s := commandState c s) hcpu
  refine ⟨_, hexec, ?_⟩
  rw [hdrew] at houtside ⊢
  exact ⟨⟨rfl, rfl, rfl, rfl, rfl, rfl, rfl, rfl, rfl⟩, houtside⟩

end Sys2Proof
end

section
/-!
PROOFS. The polygon fills (spec/44_fills.md R290 to R292): a walk down two edges, whose position no pixel depends on.
-/
namespace Sys2Proof.Machine

/-! ### Pixels with a source (R210) -/

/-- A visited pixel whose source value is found in the state before the visit. -/
def sourced (v : Int × Int → State → Option Word) (p : Int × Int) (s : State) : State :=
  pixel p.1 p.2 (v p s) none false s

theorem onlyDrew_visitAll_sourced (v : Int × Int → State → Option Word) (ps : List (Int × Int)) {s : State}
    (h : takesCpu s.eng.cmd = false) : OnlyDrew s (visitAll (sourced v) ps s) := by
  induction ps generalizing s with
  | nil => exact .refl s
  | cons p ps ih =>
    have hp : OnlyDrew s (sourced v p s) := onlyDrew_pixel p.1 p.2 (v p s) none false h
    exact hp.trans (ih (by rwa [hp.cmd_eq]))

theorem sameOutside_visitAll_sourced (v : Int × Int → State → Option Word) (ps : List (Int × Int)) (s : State) :
    sameOutside s (visitAll (sourced v) ps s) ps := by
  induction ps generalizing s with
  | nil => exact fun _ _ => rfl
  | cons p ps ih =>
    exact sameOutside_cons (t := sourced v p s) rfl (sameOutside_pixel p.1 p.2 (v p s) none false s)
      (ih (sourced v p s))

theorem cmd_visitAll_sourced (v : Int × Int → State → Option Word) (ps : List (Int × Int)) (s : State) :
    (visitAll (sourced v) ps s).eng.cmd = s.eng.cmd := by
  induction ps generalizing s with
  | nil => rfl
  | cons p ps ih => exact ih (sourced v p s)

/-- A change of state that commutes with every visit may be made before or after all of them. -/
theorem visitAll_comm {α : Type} (visit : α → State → State) (f : State → State)
    (hf : ∀ p u, visit p (f u) = f (visit p u)) (ps : List α) (s : State) :
    visitAll visit ps (f s) = f (visitAll visit ps s) := by
  induction ps generalizing s with
  | nil => rfl
  | cons p ps ih =>
    calc visitAll visit (p :: ps) (f s)
        = visitAll visit ps (f (visit p s)) := congrArg (visitAll visit ps) (hf p s)
      _ = f (visitAll visit ps (visit p s)) := ih (visit p s)

theorem visitAll_append {α : Type} (visit : α → State → State) (ps qs : List α) (s : State) :
    visitAll visit (ps ++ qs) s = visitAll visit qs (visitAll visit ps s) := List.foldl_append

/-! ### The two edges (R290) -/

/-- Where the walk of a polygon stands: the positions and the deltas of its edges, the row and the rows left. -/
structure Edges where
  f1 : Int
  d1 : Int
  f2 : Int
  d2 : Int
  y : Int
  left : Int

/-- The edges `n` rows on. -/
def Edges.down (e : Edges) (n : Nat) : Edges :=
  { e with f1 := e.f1 + n * e.d1, f2 := e.f2 + n * e.d2, y := e.y + n, left := e.left - n }

/-- The state with the walk of a polygon at its edges, and the tile at the origin (R291). -/
def atEdges (e : Edges) (s : State) : State :=
  { s with eng := { s.eng with
      fx1 := e.f1, dfx1 := e.d1, fx2 := e.f2, dfx2 := e.d2, cy := e.y, sy := e.left, patx := 0, paty := 0 } }

/-- The edges a polygon starts with (R290). -/
def startEdges (s : State) : Edges :=
  let e := (polyInit s).eng
  ⟨e.fx1, e.dfx1, e.fx2, e.dfx2, e.cy, e.sy⟩

theorem polyInit_eq (s : State) : polyInit s = atEdges (startEdges s) s := rfl

theorem Edges.down_zero (e : Edges) : e.down 0 = e := by
  simp [Edges.down]

theorem Edges.down_succ (e : Edges) (n : Nat) : (e.down 1).down n = e.down (n + 1) := by
  simp only [Edges.down, Edges.mk.injEq, true_and]
  push_cast
  refine ⟨?_, ?_, ?_, ?_⟩ <;> ring

/-- The scanline the edges stand at. -/
def Edges.span (e : Edges) : List (Int × Int) := spanPixels e.f1 e.f2 e.y

/-- The scanlines of the next `n` rows. -/
def Edges.rows (e : Edges) (n : Nat) : List (Int × Int) := polyPixels n e.f1 e.d1 e.f2 e.d2 e.y

theorem Edges.rows_succ (e : Edges) (n : Nat) : e.rows (n + 1) = e.span ++ (e.down 1).rows n := by
  have hshift (a b : Int) (j : Nat) : a + (j + 1 : Nat) * b = a + b + j * b := by push_cast; ring
  have hrow (j : Nat) : e.y + (j + 1 : Nat) = e.y + 1 + j := by push_cast; ring
  simp only [Edges.rows, polyPixels, List.range_succ_eq_map (n := n), List.flatMap_cons, List.flatMap_map,
    Nat.succ_eq_add_one, hshift, hrow]
  simp [Edges.span, Edges.down]

/-! ### The fill (R290, R291) -/

/-- The source value of a polygon's pixel: of the tile at the origin, or none. -/
def fillSource (pat8 : Bool) (p : Int × Int) (s : State) : Option Word :=
  if pat8 then some (tileAt s 0 0 p) else none

theorem polySource_atEdges (e : Edges) (x : Int) (s : State) :
    polySource (atEdges e s) x = fillSource (cmdPat8 s.eng.cmd) (x, e.y) s := by
  simp only [polySource, fillSource, State.tilePixel, tileAt, atEdges, Int.zero_add, Int.toNat_natCast, Nat.zero_add]

theorem polySpan_atEdges (n : Nat) (x : Int) (e : Edges) (s : State) :
    polySpan n x (atEdges e s) = atEdges e
      (visitAll (sourced (fillSource (cmdPat8 s.eng.cmd))) ((List.range n).map fun (i : Nat) => (x + i, e.y)) s) := by
  induction n generalizing x s with
  | zero => rfl
  | succ n ih =>
    have hpixel : pixel x e.y (polySource (atEdges e s) x) none false (atEdges e s) =
        atEdges e (sourced (fillSource (cmdPat8 s.eng.cmd)) (x, e.y) s) := by
      rw [polySource_atEdges]
      rfl
    have hshift (i : Nat) : x + (i + 1 : Nat) = x + 1 + i := by push_cast; ring
    have hcmd : (sourced (fillSource (cmdPat8 s.eng.cmd)) (x, e.y) s).eng.cmd = s.eng.cmd := rfl
    calc polySpan (n + 1) x (atEdges e s)
        = polySpan n (x + 1) (atEdges e (sourced (fillSource (cmdPat8 s.eng.cmd)) (x, e.y) s)) :=
          congrArg (polySpan n (x + 1)) hpixel
      _ = _ := by
          rw [ih, hcmd, List.range_succ_eq_map, List.map_cons, List.map_map]
          simp only [Function.comp_def, Nat.succ_eq_add_one, hshift, Nat.cast_zero, Int.add_zero]
          rfl

/-- One scanline visits the span between the edges and steps to the next row (R290). -/
theorem polyScan_atEdges (e : Edges) (s : State) :
    polyScan (atEdges e s) = atEdges (e.down 1) (visitAll (sourced (fillSource (cmdPat8 s.eng.cmd))) e.span s) := by
  have hspan := polySpan_atEdges ((atEdges e s).eng.polyRight - (atEdges e s).eng.polyLeft + 1).toNat
    (atEdges e s).eng.polyLeft e s
  have hdown : e.down 1 = { e with f1 := e.f1 + e.d1, f2 := e.f2 + e.d2, y := e.y + 1, left := e.left - 1 } := by
    simp [Edges.down]
  rw [polyScan, hspan, hdown]
  rfl

theorem polyLoop_atEdges (n : Nat) (e : Edges) (s : State) :
    polyLoop n (atEdges e s) =
      atEdges (e.down n) (visitAll (sourced (fillSource (cmdPat8 s.eng.cmd))) (e.rows n) s) := by
  induction n generalizing e s with
  | zero => rw [Edges.down_zero]; rfl
  | succ n ih =>
    rw [polyLoop, polyScan_atEdges, ih, cmd_visitAll_sourced, Edges.down_succ, Edges.rows_succ, visitAll_append]

/-- A polygon visits one scanline for each row from its start to the lower end row, and none where that lies above
(R290). -/
theorem polyRun_atEdges (e : Edges) (s : State) :
    polyRun (atEdges e s) = polyFinish (atEdges (e.down (e.left + 1).toNat)
      (visitAll (sourced (fillSource (cmdPat8 s.eng.cmd))) (e.rows (e.left + 1).toNat) s)) :=
  congrArg polyFinish (polyLoop_atEdges _ e s)

/-! ### The start of a polygon (R290) -/

theorem cmdPat8_cmdWord (cls : BitVec 3) (o : CmdOpts) : cmdPat8 (cmdWord cls o) = o.pat8 := by
  simp only [cmdPat8, cmdWord, BitVec.getLsbD_append]
  simp

/-- A command of class 3 is a polygon (R121, R290). -/
theorem beginOp_polygon {s : State} (hcls : s.eng.cls = 3) (hcpu : takesCpu s.eng.cmd = false) :
    beginOp s = polyRun (atEdges (startEdges s) (activate s)) := by
  have hinit : initOp s = atEdges (startEdges s) s := by
    rw [initOp, hcls]
    exact polyInit_eq s
  have hrun : runOp (atEdges (startEdges s) (activate s)) = polyRun (atEdges (startEdges s) (activate s)) := by
    have hcls' : (atEdges (startEdges s) (activate s)).eng.cls = 3 := hcls
    rw [runOp, hcls']
    rfl
  rw [beginOp_of_not_takesCpu (by rw [hinit]; exact hcpu), hinit]
  exact hrun

theorem visitAll_activate (v : Int × Int → State → Option Word) (hv : ∀ p u, v p (activate u) = v p u)
    (ps : List (Int × Int)) (s : State) :
    visitAll (sourced v) ps (activate s) = activate (visitAll (sourced v) ps s) :=
  visitAll_comm _ activate (fun p u => by rw [sourced, hv]; rfl) ps s

end Sys2Proof.Machine

namespace Sys2Proof
open Sys2Proof.Machine

/-- Settles O50: the two edges run down from the latched ones, and each scanline is the span between them. -/
theorem polygonCommands : Obligations.PolygonCommands := by
  unfold Obligations.PolygonCommands
  intro s sp o c hnow hchip hok xa1 ya1 xb1 yb1 xa2 ya2 xb2 yb2 d1 d2 f1 f2 n ps i hi
  have hclass : cmdClass c = 3 := cmdClass_cmdWord 3 o
  have hpat : cmdPat8 c = o.pat8 := cmdPat8_cmdWord 3 o
  have hcpu : takesCpu c = false := by
    apply takesCpu_of_cmdClass <;> rw [hclass] <;> decide
  have hgate : gate s.cfg.cap (cmdClass c) = true := by rw [hclass]; exact hchip
  have hwrite : exec i s = commandWrite sp c s := by
    rcases hi with ⟨rfl, -⟩ | ⟨rfl, -⟩ <;> rfl
  let e : Edges := ⟨f1, d1, f2, d2, ya1, min yb1 yb2 - ya1⟩
  let u : State := visitAll (sourced (fillSource o.pat8)) ps (commandState c s)
  have hstart : startEdges (commandState c s) = e := rfl
  have hexec : exec i s = .next (polyFinish (atEdges (e.down n) (activate u))) := by
    calc exec i s
        = .next (beginOp (commandState c s)) := by rw [hwrite, commandWrite_begins hnow hgate hok]
      _ = .next (polyRun (atEdges e (activate (commandState c s)))) := by
          rw [beginOp_polygon (s := commandState c s) hclass hcpu, hstart]
      _ = .next (polyFinish (atEdges (e.down n) (visitAll (sourced (fillSource (cmdPat8 c))) ps
            (activate (commandState c s))))) := congrArg Host.Outcome.next (polyRun_atEdges e _)
      _ = _ := by rw [hpat, visitAll_activate _ (fun _ _ => rfl)]
  have houtside : sameOutside (commandState c s) u ps := sameOutside_visitAll_sourced _ ps _
  obtain ⟨m, ph, d, hdrew⟩ : OnlyDrew (commandState c s) u := onlyDrew_visitAll_sourced _ ps hcpu
  refine ⟨_, hexec, ⟨rfl, ?_⟩, houtside⟩
  rw [hdrew]
  exact ⟨rfl, rfl, rfl, rfl, rfl, rfl, rfl, rfl⟩

end Sys2Proof
end

section
/-!
PROOFS. Reads of the pixel-transfer port, and the bytes of a rectangle read-back (spec/44_fills.md R285, R286;
spec/40_bus_access.md R175).
-/
namespace Sys2Proof.Machine

/-! ### A read of the pixel-transfer port (R86, R175) -/

/-- The four bytes of the port follow one another from its base, which is a multiple of 4 (R110). -/
theorem pixPort_lane : ∀ lane : BitVec 2,
    isPixPort (pixPortLo + lane.toNat) = true ∧ (pixPortLo + lane.toNat) % 4 = lane.toNat := by decide

theorem resolve_pixPort (cfg : Config) (inp : Inputs) {lane : BitVec 2} {w : Width} (h : w = .w8 ∨ lane = 0) :
    resolve cfg inp .io (pixPortLo + lane.toNat) w = .pix lane.toNat := by
  obtain ⟨hport, hlane⟩ := pixPort_lane lane
  have hbase : w = .w8 ∨ pixPortLo + lane.toNat = pixPortLo := h.imp_right fun h0 => by rw [h0]; rfl
  have hpix := resolvePort_pix cfg.cap (pixPortLo + lane.toNat) w hport hbase
  rwa [hlane] at hpix

/-- A byte read of the port, or a wider read at its base, that nothing holds returns the bytes from its lane on. -/
theorem exec_inPixTrans {s : State} {lane : BitVec 2} {w : Width} (h : w = .w8 ∨ lane = 0)
    (hnamed : named s .io (pixPortLo + lane.toNat)) (hnow : readsNow s) :
    exec (.inPixTrans lane w) s = .next (returnRead w (readPix lane.toNat 0 (widthBytes w) s).1
      (readPix lane.toNat 0 (widthBytes w) s).2) := by
  obtain ⟨hreach, halias⟩ := hnamed
  have htarget := resolve_pixPort s.cfg s.inputs h
  have hread := hostAccess_read .io (pixPortLo + lane.toNat) w s hreach (aliased_of_none _ _ _ halias)
    (handledWhole_of_ne _ _ _ _ _ (by rw [htarget]; nofun)) (by rw [htarget]; nofun) hnow
  rw [exec_access, accessOf, hread, htarget]
  rfl

theorem exec_inPixTrans_byte {s : State} {lane : BitVec 2} (hnamed : named s .io (pixPortLo + lane.toNat))
    (hnow : readsNow s) :
    exec (.inPixTrans lane .w8) s = .next (returnRead .w8 ((readPixByte lane.toNat s).1.setWidth 32)
      (readPixByte lane.toNat s).2) := by
  have hvalue : (readPix lane.toNat 0 1 s).1 = (readPixByte lane.toNat s).1.setWidth 32 := by
    simp [readPix]
  rw [exec_inPixTrans (.inl rfl) hnamed hnow, widthBytes, hvalue]
  rfl

/-! ### The value of a wider read (R175) -/

/-- A byte put above the bits of a value. -/
theorem or_shiftLeft_byte {n : Nat} (b : Byte) (v : BitVec n) (h : n + 8 ≤ 32) :
    v.setWidth 32 ||| (b.setWidth 32 <<< n) = (b ++ v).setWidth 32 := by
  apply BitVec.eq_of_getLsbD_eq
  intro i hi
  simp only [BitVec.getLsbD_or, BitVec.getLsbD_setWidth, BitVec.getLsbD_shiftLeft, BitVec.getLsbD_append, hi]
  by_cases hlow : i < n
  · simp [hlow]
  · have hout : v.getLsbD i = false := BitVec.getLsbD_of_ge v i (Nat.le_of_not_lt hlow)
    have hin : i - n < 32 := by omega
    simp [hlow, hout, hin]

theorem readPix_two (s : State) :
    readPix 0 0 2 s =
      let r0 := readPixByte 0 s
      let r1 := readPixByte 1 r0.2
      ((r1.1 ++ r0.1).setWidth 32, r1.2) := by
  simp only [← or_shiftLeft_byte _ _ (by decide : 8 + 8 ≤ 32)]
  simp [readPix]

theorem readPix_four (s : State) :
    readPix 0 0 4 s =
      let r0 := readPixByte 0 s
      let r1 := readPixByte 1 r0.2
      let r2 := readPixByte 2 r1.2
      let r3 := readPixByte 3 r2.2
      (r3.1 ++ (r2.1 ++ (r1.1 ++ r0.1)), r3.2) := by
  have happend (b0 b1 b2 b3 : Byte) : b0.setWidth 32 ||| (b1.setWidth 32 <<< 8) ||| (b2.setWidth 32 <<< 16) |||
      (b3.setWidth 32 <<< 24) = b3 ++ (b2 ++ (b1 ++ b0)) := by
    rw [or_shiftLeft_byte b1 b0 (by decide), or_shiftLeft_byte b2 (b1 ++ b0) (by decide),
      or_shiftLeft_byte b3 (b2 ++ (b1 ++ b0)) (by decide)]
    exact BitVec.setWidth_eq _
  simp only [← happend]
  simp [readPix, BitVec.or_assoc]

/-! ### The bytes of a read-back (R286) -/

theorem pixelMask_eq (d : Depth) : pixelMask d = (BitVec.allOnes (8 * pixelBytes d)).setWidth 32 := by
  cases d <;> rfl

/-- The pixel mask covers every byte of a pixel (R10). -/
theorem pixelByte_masked (d : Depth) (v : Word) {k : Nat} (hk : k < pixelBytes d) :
    (v &&& pixelMask d).extractLsb' (8 * k) 8 = v.extractLsb' (8 * k) 8 := by
  have hbytes : pixelBytes d ≤ 4 := by cases d <;> decide
  apply BitVec.eq_of_getLsbD_eq
  intro i hi
  have hin : 8 * k + i < 8 * pixelBytes d := by omega
  have hword : 8 * k + i < 32 := by omega
  simp [pixelMask_eq, hin, hword]

theorem pixelBytesOf_eq (v : Word) (k n : Nat) :
    pixelBytesOf v k n = (List.range n).map fun j => v.extractLsb' (8 * (k + j)) 8 := by
  induction n generalizing k with
  | zero => rfl
  | succ n ih =>
    have hshift (j : Nat) : k + 1 + j = k + (j + 1) := by omega
    simp only [pixelBytesOf, ih, List.range_succ_eq_map (n := n), List.map_cons, List.map_map, Function.comp_def,
      hshift]
    rfl

/-- The bytes of a fetched pixel are its bytes in VRAM, in order (R286). -/
theorem pixelBytesOf_masked (d : Depth) (v : Word) :
    pixelBytesOf (v &&& pixelMask d) 0 (pixelBytes d) =
      (List.range (pixelBytes d)).map fun k => v.extractLsb' (8 * k) 8 := by
  rw [pixelBytesOf_eq]
  refine List.map_congr_left fun k hk => ?_
  rw [Nat.zero_add]
  exact pixelByte_masked d v (List.mem_range.mp hk)

theorem readBackFetch_rb_ne_nil (s : State) : (readBackFetch s).eng.rb ≠ [] := by
  have hpixel (v : Word) : pixelBytesOf v 0 (pixelBytes s.cfg.depth) ≠ [] := by
    cases s.cfg.depth <;> exact List.cons_ne_nil _ _
  simp only [readBackFetch, Eng.rectStep]
  split
  · exact hpixel _
  · split <;> exact hpixel _

/-- The state in which the first byte of the pixel at the walk's position is next (R286). -/
def pixelFetched (s : State) : State :=
  let bytes := (List.range (pixelBytes s.cfg.depth)).map fun k =>
    (readPixel s.cfg s.vram (destIndex s s.eng.cx s.eng.cy)).extractLsb' (8 * k) 8
  { s with eng :=
      if 0 < s.eng.sx then { s.eng with rb := bytes, cx := s.eng.cx + dirX s.eng.cmd, sx := s.eng.sx - 1 }
      else if 0 < s.eng.sy then
        { s.eng with
          rb := bytes, cx := s.eng.x0, cy := s.eng.cy + dirY s.eng.cmd, sx := s.eng.w, sy := s.eng.sy - 1
          cpuBits := [], cpuPix := [] }
      else { s.eng with rb := bytes, rbEnded := true } }

theorem rectLast_iff (s : State) : rectLast s = true ↔ ¬ 0 < s.eng.sx ∧ ¬ 0 < s.eng.sy := by
  simp only [rectLast, Bool.and_eq_true, Bool.not_eq_true', decide_eq_false_iff_not]

/-- A fetch advances along the row, to the next row, or marks the end (R280, R286). -/
theorem readBackFetch_eq (s : State) : readBackFetch s = pixelFetched s := by
  simp only [readBackFetch, pixelFetched, pixelBytesOf_masked, Eng.rectStep]
  by_cases hx : 0 < s.eng.sx
  · have hmore : ¬ rectLast s = true := fun h => ((rectLast_iff s).mp h).1 hx
    rw [if_neg hmore, if_pos hx, if_pos hx]
    rfl
  · by_cases hy : 0 < s.eng.sy
    · have hmore : ¬ rectLast s = true := fun h => ((rectLast_iff s).mp h).2 hy
      rw [if_neg hmore, if_neg hx, if_neg hx, if_pos hy]
      rfl
    · rw [if_pos ((rectLast_iff s).mpr ⟨hx, hy⟩), if_neg hx, if_neg hy]
      rfl

/-! ### A byte of a read-back (R285, R286) -/

theorem readBackFill_of_empty {s : State} (h : s.eng.rb = []) : readBackFill s = readBackFetch s := by
  simp [readBackFill, h]

theorem readBackFill_of_ne {s : State} (h : s.eng.rb ≠ []) : readBackFill s = s := by
  simp [readBackFill, h]

/-- The state after a buffered byte has been returned, `bs` of its pixel left. -/
def byteTaken (bs : List Byte) (s : State) : State :=
  let u : State := { s with eng := { s.eng with rb := bs } }
  if bs = [] ∧ s.eng.rbEnded = true then readBackFinish u else u

theorem readBackByte_buffered {s : State} {b : Byte} {bs : List Byte} (h : s.eng.rb = b :: bs) :
    readBackByte s = (b, byteTaken bs s) := by
  have hfill : readBackFill s = s := readBackFill_of_ne (by rw [h]; exact List.cons_ne_nil b bs)
  simp [readBackByte, hfill, h, byteTaken]

/-- Where no byte is buffered, the read-back goes on as after the fetch. -/
theorem readBackByte_fetched {s : State} (h : s.eng.rb = []) : readBackByte s = readBackByte (readBackFetch s) := by
  simp only [readBackByte, readBackFill_of_empty h, readBackFill_of_ne (readBackFetch_rb_ne_nil s)]

theorem readPixByte_of_readingBack {s : State} (lane : Nat) (h : s.readingBack = true) :
    readPixByte lane s = readBackByte s := if_pos h

/-! ### What a byte of the port leaves unchanged -/

theorem sameContext.refl (s : State) : sameContext s s := ⟨rfl, rfl, rfl, rfl⟩

theorem sameContext.trans {s t u : State} (hst : sameContext s t) (htu : sameContext t u) : sameContext s u := by
  obtain ⟨hcfg, hinputs, hfifo, hhost⟩ := hst
  obtain ⟨hcfg', hinputs', hfifo', hhost'⟩ := htu
  exact ⟨hcfg'.trans hcfg, hinputs'.trans hinputs, hfifo'.trans hfifo, hhost'.trans hhost⟩

theorem sameContext.readsNow {s t : State} (h : sameContext s t) (hnow : readsNow s) : readsNow t := by
  obtain ⟨hcfg, hinputs, hfifo, -⟩ := h
  unfold Machine.readsNow State.enableFifo at *
  rwa [hcfg, hinputs, hfifo]

theorem sameContext.named {s t : State} (h : sameContext s t) {sp : Space} {a : Nat} (hnamed : named s sp a) :
    named t sp a := by
  obtain ⟨hcfg, hinputs, -, -⟩ := h
  unfold Machine.named at *
  rwa [hcfg, hinputs]

theorem sameContext_readBackByte (s : State) : sameContext s (readBackByte s).2 := by
  have hfill : sameContext s (readBackFill s) := by
    unfold readBackFill
    split <;> exact ⟨rfl, rfl, rfl, rfl⟩
  refine hfill.trans ?_
  simp only [readBackByte]
  split <;> exact ⟨rfl, rfl, rfl, rfl⟩

theorem sameContext_readPixByte (lane : Nat) (s : State) : sameContext s (readPixByte lane s).2 := by
  unfold readPixByte
  split
  · exact sameContext_readBackByte s
  · exact .refl s

end Sys2Proof.Machine

namespace Sys2Proof
open Sys2Proof.Machine

/-- Settles O25: a byte comes from the buffer, or from the pixel fetched into it; a wider read is the bytes of its
lanes, since none of them changes what an access at the port reaches. -/
theorem readBackBytes : Obligations.ReadBackBytes := by
  unfold Obligations.ReadBackBytes
  intro s lane hnamed hnow hactive hcls hpcdata hwrtdata
  have hreading : s.readingBack = true := by
    simp [State.readingBack, hactive, hcls, hpcdata, hwrtdata]
  have hbyte : exec (.inPixTrans lane .w8) s =
      .next (returnRead .w8 ((readBackByte s).1.setWidth 32) (readBackByte s).2) := by
    rw [exec_inPixTrans_byte hnamed hnow, readPixByte_of_readingBack _ hreading]
  refine ⟨fun b bs hrb => ?buffered, fun hrb => ?fetched, ?wide⟩
  case buffered =>
    rw [hbyte, readBackByte_buffered hrb, byteTaken]
    split <;> rfl
  case fetched =>
    have hfetch : exec (.inPixTrans lane .w8) (pixelFetched s) =
        .next (returnRead .w8 ((readBackByte (pixelFetched s)).1.setWidth 32) (readBackByte (pixelFetched s)).2) := by
      have hreading' : (pixelFetched s).readingBack = true := by
        rw [← hreading]
        simp only [pixelFetched, State.readingBack]
        split
        · rfl
        · split <;> rfl
      rw [exec_inPixTrans_byte (s := pixelFetched s) hnamed hnow, readPixByte_of_readingBack _ hreading']
    have hsame : readBackByte s = readBackByte (pixelFetched s) := by
      rw [readBackByte_fetched hrb, readBackFetch_eq]
    exact (hbyte.trans (by rw [hsame])).trans hfetch.symm
  case wide =>
    intro gives hlanes
    have hgives (l : BitVec 2) {a : State} (ha : sameContext s a) :
        gives l a (readPixByte l.toNat a).1 (readPixByte l.toNat a).2 ∧
          sameContext s (readPixByte l.toNat a).2 := by
      have hnext := sameContext_readPixByte l.toNat a
      have ⟨_, _, _, hhost⟩ := hnext
      exact ⟨⟨hhost, exec_inPixTrans_byte (ha.named (hlanes l)) (ha.readsNow hnow)⟩, ha.trans hnext⟩
    obtain ⟨h0, hs1⟩ := hgives 0 (.refl s)
    obtain ⟨h1, hs2⟩ := hgives 1 hs1
    obtain ⟨h2, hs3⟩ := hgives 2 hs2
    obtain ⟨h3, -⟩ := hgives 3 hs3
    refine ⟨_, _, _, _, _, _, _, _, h0, h1, h2, h3, ?_, ?_⟩
    · have hread : exec (.inPixTrans 0 .w16) s = .next (returnRead .w16 (readPix 0 0 2 s).1 (readPix 0 0 2 s).2) :=
        exec_inPixTrans (.inr rfl) (hlanes 0) hnow
      rw [hread, readPix_two]
      rfl
    · have hread : exec (.inPixTrans 0 .w32) s = .next (returnRead .w32 (readPix 0 0 4 s).1 (readPix 0 0 4 s).2) :=
        exec_inPixTrans (.inr rfl) (hlanes 0) hnow
      rw [hread, readPix_four]
      rfl

end Sys2Proof
end

section
/-!
PROOFS. BitBlt, pattern fill and ROPBlt (spec/45_blits.md R310 to R320). The three share one walk: the offsets of the
destination rectangle, row by row; they differ in the source and the pattern value of a step.
-/
namespace Sys2Proof.Machine

/-! ### Pixels with a source and a pattern (R210, R320) -/

/-- The pixel of a blit at an offset of its rectangle; its source and its pattern value are found in the state before
the visit. -/
def blitted (c : Half) (x y : Int) (v p : Int × Int → State → Option Word) (q : Int × Int) (s : State) : State :=
  pixel (x + q.1 * dirX c) (y + q.2 * dirY c) (v q s) (p q s) false s

/-- Drawing one more pixel of a blit is drawing. -/
theorem OnlyDrew.blitted {s u : State} (c : Half) (x y : Int) (v p : Int × Int → State → Option Word)
    (q : Int × Int) (hcpu : takesCpu s.eng.cmd = false) (hu : OnlyDrew s u) : OnlyDrew s (blitted c x y v p q u) :=
  hu.trans (onlyDrew_pixel _ _ (v q u) (p q u) false (by rw [hu.cmd_eq, hcpu]))

theorem sameOutside_visitAll_blitted (c : Half) (x y : Int) (v p : Int × Int → State → Option Word)
    (qs : List (Int × Int)) (s : State) :
    sameOutside s (visitAll (blitted c x y v p) qs s) (qs.map fun q => (x + q.1 * dirX c, y + q.2 * dirY c)) := by
  induction qs generalizing s with
  | nil => exact fun _ _ => rfl
  | cons q qs ih =>
    exact sameOutside_cons (t := blitted c x y v p q s) rfl (sameOutside_pixel _ _ (v q s) (p q s) false s)
      (ih (blitted c x y v p q s))

/-! ### Where a blit stands (R310, R315, R320) -/

/-- The place of a blit's walk: the source position and the start of its row, the same of the destination, the latched
width, the columns and the rows left, and the tile origin. -/
structure BlitPlace where
  srcx0 : Int
  srcx : Int
  srcy : Int
  x0 : Int
  cx : Int
  cy : Int
  w : Int
  sx : Int
  sy : Int
  patx : Int
  paty : Int

/-- The place held in a working state. -/
def Eng.blitPlace (e : Eng) : BlitPlace :=
  ⟨e.srcx0, e.srcx, e.srcy, e.x0, e.cx, e.cy, e.w, e.sx, e.sy, e.patx, e.paty⟩

/-- The active operation with its walk at a place. -/
def blitAt (k : BlitPlace) (s : State) : State :=
  { s with eng := { s.eng with
      active := true, srcx0 := k.srcx0, srcx := k.srcx, srcy := k.srcy, x0 := k.x0, cx := k.cx, cy := k.cy, w := k.w,
      sx := k.sx, sy := k.sy, patx := k.patx, paty := k.paty } }

/-- The place at column `i` and row `j` of the rectangle that begins at `k`, the source at rest (R315). -/
def BlitPlace.dest (k : BlitPlace) (c : Half) (i j : Nat) : BlitPlace :=
  { k with cx := k.x0 + i * dirX c, cy := k.cy + j * dirY c, sx := k.w - i, sy := k.sy - j }

/-- The same, the source moving along (R310). -/
def BlitPlace.both (k : BlitPlace) (c : Half) (i j : Nat) : BlitPlace :=
  { k.dest c i j with srcx := k.srcx0 + i * dirX c, srcy := k.srcy + j * dirY c }

theorem BlitPlace.dest_zero {k : BlitPlace} (c : Half) (hx : k.cx = k.x0) (hw : k.sx = k.w) : k.dest c 0 0 = k := by
  cases k
  dsimp only at *
  subst hx hw
  simp [BlitPlace.dest]

theorem BlitPlace.both_zero {k : BlitPlace} (c : Half) (hx : k.cx = k.x0) (hw : k.sx = k.w) (hsrc : k.srcx = k.srcx0) :
    k.both c 0 0 = k := by
  cases k
  dsimp only at *
  subst hx hw hsrc
  simp [BlitPlace.both, BlitPlace.dest]

/-- The tile pixel of a place whose tile origin is a coordinate (R291, R315). -/
theorem tilePixel_blitAt {k : BlitPlace} {tx ty : Nat} (hx : k.patx = tx) (hy : k.paty = ty) (x y : Int) (s : State) :
    (blitAt k s).tilePixel x y = tileAt s tx ty (x, y) := by
  simp only [State.tilePixel, tileAt, blitAt, hx, hy, ← Int.natCast_add, Int.toNat_natCast]

/-! ### The steps of the walk (R310) -/

/-- The position one step on. -/
theorem position_succ (a b : Int) (n : Nat) : a + n * b + b = a + (n + 1 : Nat) * b := by push_cast; ring

/-- The pixels left one step on. -/
theorem pixelsLeft_succ (a : Int) (n : Nat) : a - n - 1 = a - (n + 1 : Nat) := by push_cast; ring

/-- Along a row. -/
theorem rectAdvance_along {k : BlitPlace} {c : Half} {i : Nat} {u : State} (j : Nat) (hcmd : u.eng.cmd = c)
    (hi : (i : Int) < k.w) :
    rectAdvance (blitAt (k.dest c i j) u) = blitAt (k.dest c (i + 1) j) u := by
  subst hcmd
  have hmore : 0 < (blitAt (k.dest u.eng.cmd i j) u).eng.sx := Int.sub_pos.mpr hi
  rw [rectAdvance, Eng.rectStep, if_pos hmore]
  simp only [blitAt, BlitPlace.dest, position_succ, pixelsLeft_succ]

/-- From the end of a row to the next one; no CPU data are there to be discarded (R244). -/
theorem rectAdvance_down {k : BlitPlace} {c : Half} {i : Nat} {u : State} (j : Nat) (hcmd : u.eng.cmd = c)
    (hi : (i : Int) = k.w) (hbits : u.eng.cpuBits = []) (hpix : u.eng.cpuPix = []) :
    rectAdvance (blitAt (k.dest c i j) u) = blitAt (k.dest c 0 (j + 1)) u := by
  subst hcmd
  have hend : ¬ 0 < (blitAt (k.dest u.eng.cmd i j) u).eng.sx := by
    simp [blitAt, BlitPlace.dest, hi]
  rw [rectAdvance, Eng.rectStep, if_neg hend, Eng.discardData, ← hbits, ← hpix]
  simp [blitAt, BlitPlace.dest, position_succ, pixelsLeft_succ]

/-- Along a row, in source and destination. -/
theorem blitAdvance_along {k : BlitPlace} {c : Half} {i : Nat} {u : State} (j : Nat) (hcmd : u.eng.cmd = c)
    (hi : (i : Int) < k.w) :
    blitAdvance (blitAt (k.both c i j) u) = blitAt (k.both c (i + 1) j) u := by
  subst hcmd
  have hmore : 0 < (blitAt (k.both u.eng.cmd i j) u).eng.sx := Int.sub_pos.mpr hi
  rw [blitAdvance, Eng.blitStep, if_pos hmore, Eng.rectStep, if_pos hmore]
  simp only [blitAt, BlitPlace.both, BlitPlace.dest, position_succ, pixelsLeft_succ]

/-- From the end of a row to the next one, in source and destination. -/
theorem blitAdvance_down {k : BlitPlace} {c : Half} {i : Nat} {u : State} (j : Nat) (hcmd : u.eng.cmd = c)
    (hi : (i : Int) = k.w) (hbits : u.eng.cpuBits = []) (hpix : u.eng.cpuPix = []) :
    blitAdvance (blitAt (k.both c i j) u) = blitAt (k.both c 0 (j + 1)) u := by
  subst hcmd
  have hend : ¬ 0 < (blitAt (k.both u.eng.cmd i j) u).eng.sx := by
    simp [blitAt, BlitPlace.both, BlitPlace.dest, hi]
  rw [blitAdvance, Eng.blitStep, if_neg hend, Eng.rectStep, if_neg hend, Eng.discardData, ← hbits, ← hpix]
  simp [blitAt, BlitPlace.both, BlitPlace.dest, position_succ, pixelsLeft_succ]

/-! ### The walk of a rectangle, row by row (R280, R310) -/

/-- The first `m` offsets of row `j`. -/
def gridRow (j m : Nat) : List (Int × Int) := (List.range m).map fun (i : Nat) => ((i : Int), (j : Int))

/-- The grid of a rectangle is made of whole rows. -/
theorem grid_eq (w h : Nat) : grid w h = (List.range (h + 1)).flatMap (gridRow · (w + 1)) := by
  simp [grid, gridRow, ← List.map_eq_flatMap, List.flatMap_map, Function.comp_def]

theorem visitAll_gridRow_succ (visit : Int × Int → State → State) (j m : Nat) (s : State) :
    visitAll visit (gridRow j (m + 1)) s = visit (m, j) (visitAll visit (gridRow j m) s) := by
  have hsplit : gridRow j (m + 1) = gridRow j m ++ [((m : Int), (j : Int))] := by simp [gridRow, List.range_succ]
  rw [hsplit, visitAll_append]
  rfl

theorem visitAll_gridRows_succ (visit : Int × Int → State → State) (m n : Nat) (s : State) :
    visitAll visit ((List.range (m + 1)).flatMap (gridRow · n)) s =
      visitAll visit (gridRow m n) (visitAll visit ((List.range m).flatMap (gridRow · n)) s) := by
  rw [List.range_succ, List.flatMap_append, List.flatMap_singleton, visitAll_append]

/-- What a class's visits and steps do at each place of its rectangle of `w + 1` columns and `h + 1` rows, in the states
that come from `s` by drawing. -/
structure Sweeps (s : State) (w h : Nat) (place : Nat → Nat → BlitPlace) (visit advance : State → State)
    (pix : Int × Int → State → State) : Prop where
  noCpu : takesCpu s.eng.cmd = false
  columns : ∀ i j, (place i j).sx = w - i
  rows : ∀ i j, (place i j).sy = h - j
  visits : ∀ (i j : Nat) u, OnlyDrew s u → visit (blitAt (place i j) u) = blitAt (place i j) (pix (i, j) u)
  draws : ∀ q u, OnlyDrew s u → OnlyDrew s (pix q u)
  along : ∀ i j u, OnlyDrew s u → i < w → advance (blitAt (place i j) u) = blitAt (place (i + 1) j) u
  down : ∀ j u, OnlyDrew s u → advance (blitAt (place w j) u) = blitAt (place 0 (j + 1)) u

section
variable {s : State} {w h : Nat} {place : Nat → Nat → BlitPlace} {visit advance : State → State}
  {pix : Int × Int → State → State} (finish : State → State)

theorem Sweeps.draws_all (hs : Sweeps s w h place visit advance pix) (qs : List (Int × Int)) {u : State}
    (hu : OnlyDrew s u) : OnlyDrew s (visitAll pix qs u) := by
  induction qs generalizing u with
  | nil => exact hu
  | cons q qs ih => exact ih (hs.draws q u hu)

/-- The walk stands at its last pixel in the last column of the last row alone. -/
theorem Sweeps.last_iff (hs : Sweeps s w h place visit advance pix) {i j : Nat} (hi : i ≤ w) (hj : j ≤ h)
    (u : State) : rectLast (blitAt (place i j) u) = true ↔ i = w ∧ j = h := by
  have hsx : (blitAt (place i j) u).eng.sx = w - i := hs.columns i j
  have hsy : (blitAt (place i j) u).eng.sy = h - j := hs.rows i j
  simp only [rectLast, hsx, hsy, Bool.and_eq_true, Bool.not_eq_true', decide_eq_false_iff_not]
  omega

/-- One pixel of the walk. -/
theorem Sweeps.runWalk_pixel (hs : Sweeps s w h place visit advance pix)
    {i j : Nat} (hi : i ≤ w) (hj : j ≤ h) (n : Nat) {u : State} (hu : OnlyDrew s u) :
    runWalk rectLast visit advance finish (n + 1) (blitAt (place i j) u) =
      if i = w ∧ j = h then finish (blitAt (place i j) (pix (i, j) u))
      else runWalk rectLast visit advance finish n (advance (blitAt (place i j) (pix (i, j) u))) := by
  have hdata : (blitAt (place i j) u).hasData = true :=
    hasData_of_not_takesCpu _ (show takesCpu u.eng.cmd = false by rw [hu.cmd_eq, hs.noCpu])
  rw [runWalk_step _ _ _ _ _ _ hdata, hs.visits i j u hu]
  simp only [hs.last_iff hi hj]

/-- The walk from the start of a row, before its pixel in column `m`. -/
theorem Sweeps.runWalk_along (hs : Sweeps s w h place visit advance pix)
    {j m : Nat} (hj : j ≤ h) (hm : m ≤ w) (n : Nat) {u : State} (hu : OnlyDrew s u) :
    runWalk rectLast visit advance finish (n + m) (blitAt (place 0 j) u) =
      runWalk rectLast visit advance finish n (blitAt (place m j) (visitAll pix (gridRow j m) u)) := by
  induction m generalizing n with
  | zero => rfl
  | succ m ih =>
    have hrow := hs.draws_all (gridRow j m) hu
    calc runWalk rectLast visit advance finish (n + (m + 1)) (blitAt (place 0 j) u)
        = runWalk rectLast visit advance finish (n + 1) (blitAt (place m j) (visitAll pix (gridRow j m) u)) := by
          rw [← ih (Nat.le_of_succ_le hm), Nat.add_right_comm, Nat.add_assoc]
      _ = runWalk rectLast visit advance finish n
            (blitAt (place (m + 1) j) (pix (m, j) (visitAll pix (gridRow j m) u))) := by
          rw [hs.runWalk_pixel finish (Nat.le_of_succ_le hm) hj n hrow, if_neg (by omega),
            hs.along m j _ (hs.draws _ _ hrow) hm]
      _ = _ := by rw [visitAll_gridRow_succ]

/-- The walk over a whole row. -/
theorem Sweeps.runWalk_row (hs : Sweeps s w h place visit advance pix)
    {j : Nat} (hj : j ≤ h) (n : Nat) {u : State} (hu : OnlyDrew s u) :
    runWalk rectLast visit advance finish (n + (w + 1)) (blitAt (place 0 j) u) =
      if j = h then finish (blitAt (place w h) (visitAll pix (gridRow j (w + 1)) u))
      else runWalk rectLast visit advance finish n
        (blitAt (place 0 (j + 1)) (visitAll pix (gridRow j (w + 1)) u)) := by
  have hrow := hs.draws_all (gridRow j w) hu
  rw [Nat.add_comm w 1, ← Nat.add_assoc, hs.runWalk_along finish hj le_rfl (n + 1) hu,
    hs.runWalk_pixel finish le_rfl hj n hrow, Nat.add_comm 1 w, visitAll_gridRow_succ]
  by_cases hlast : j = h
  · rw [if_pos ⟨rfl, hlast⟩, if_pos hlast, hlast]
  · rw [if_neg (hlast ·.2), if_neg hlast, hs.down j _ (hs.draws _ _ hrow)]

/-- The walk over the first `m` rows, where more rows follow. -/
theorem Sweeps.runWalk_rows (hs : Sweeps s w h place visit advance pix)
    {m : Nat} (hm : m ≤ h) (n : Nat) {u : State} (hu : OnlyDrew s u) :
    runWalk rectLast visit advance finish (n + m * (w + 1)) (blitAt (place 0 0) u) =
      runWalk rectLast visit advance finish n
        (blitAt (place 0 m) (visitAll pix ((List.range m).flatMap (gridRow · (w + 1))) u)) := by
  induction m generalizing n with
  | zero => rw [Nat.zero_mul]; rfl
  | succ m ih =>
    have hfuel : n + (m + 1) * (w + 1) = n + (w + 1) + m * (w + 1) := by ring
    rw [hfuel, ih (Nat.le_of_succ_le hm),
      hs.runWalk_row finish (Nat.le_of_succ_le hm) n (hs.draws_all _ hu), if_neg (by omega), visitAll_gridRows_succ]

/-- The whole walk visits the grid and finishes in its last place. -/
theorem Sweeps.runWalk_grid (hs : Sweeps s w h place visit advance pix) :
    runWalk rectLast visit advance finish (w + h * (w + 1) + 1) (blitAt (place 0 0) s) =
      finish (blitAt (place w h) (visitAll pix (grid w h) s)) := by
  have hfuel : w + h * (w + 1) + 1 = 0 + (w + 1) + h * (w + 1) := by ring
  rw [hfuel, hs.runWalk_rows finish le_rfl _ (.refl s),
    hs.runWalk_row finish le_rfl 0 (hs.draws_all _ (.refl s)), if_pos rfl, ← visitAll_gridRows_succ, ← grid_eq]

end

/-! ### The end of a blit (R310, R315, R320) -/

/-- A blit leaves the pixels of its rectangle and `GE_DONE`; no position is written back. -/
theorem finished_blit (c : Half) (s : State) {u : State} (k : BlitPlace) (h : OnlyDrew (commandState c s) u) :
    Finished s (opDone (blitAt k u)) u.vram (doneRegs s c) := by
  obtain ⟨m, ph, n, rfl⟩ := h
  exact ⟨rfl, rfl, rfl, rfl, rfl, rfl, rfl, rfl, rfl⟩

/-- A command completes as a blit if its class begins a walk that sweeps the rectangle. -/
theorem blit_completes {s : State} {sp : Space} {c : Half} {x y : Int} {w h : Nat}
    {v p : Int × Int → State → Option Word} {k : BlitPlace} {place : Nat → Nat → BlitPlace}
    {visit advance : State → State} (hnow : commandNow s sp) (hgate : gate s.cfg.cap (cmdClass c) = true)
    (hok : refusedCommand s false c = none) (hstart : place 0 0 = k)
    (hinit : activate (initOp (commandState c s)) = blitAt k (commandState c s))
    (hrun : runOp (blitAt k (commandState c s)) =
      runWalk rectLast visit advance opDone (w + h * (w + 1) + 1) (blitAt k (commandState c s)))
    (hsweeps : Sweeps (commandState c s) w h place visit advance (blitted c x y v p)) :
    ∃ t, commandWrite sp c s = .next t ∧
      Finished s t (visitAll (blitted c x y v p) (grid w h) (commandState c s)).vram (doneRegs s c) ∧
      sameOutside s t (rectPixels c x y w h) := by
  have hcmd : (activate (initOp (commandState c s))).eng.cmd = c := by rw [hinit]; rfl
  have hwrite : commandWrite sp c s =
      .next (opDone (blitAt (place w h) (visitAll (blitted c x y v p) (grid w h) (commandState c s)))) := by
    calc commandWrite sp c s
        = .next (beginOp (commandState c s)) := commandWrite_begins hnow hgate hok
      _ = .next (runOp (activate (initOp (commandState c s)))) := by
          rw [beginOp_of_not_takesCpu (hcmd.symm ▸ hsweeps.noCpu)]
      _ = _ := by rw [hinit, hrun, ← hstart, hsweeps.runWalk_grid opDone]
  exact ⟨_, hwrite, finished_blit c s _ (hsweeps.draws_all _ (.refl _)),
    sameOutside_visitAll_blitted c x y v p (grid w h) (commandState c s)⟩

/-! ### The sweeps (R310, R315, R320) -/

/-- A command that takes no CPU data has none while it draws (R154). -/
theorem OnlyDrew.noCpuData {c : Half} {s u : State} (h : OnlyDrew (commandState c s) u) :
    u.eng.cpuBits = [] ∧ u.eng.cpuPix = [] := by
  obtain ⟨m, ph, n, rfl⟩ := h
  exact ⟨rfl, rfl⟩

/-- A walk over the destination alone sweeps its rectangle, whatever its pixels take as source (R315). -/
theorem sweeps_dest {c : Half} {s : State} {k : BlitPlace} {w h : Nat} {v p : Int × Int → State → Option Word}
    {visit : State → State} (hcpu : takesCpu c = false) (hw : k.w = w) (hh : k.sy = h)
    (hvisit : ∀ (i j : Nat) u, OnlyDrew (commandState c s) u →
      visit (blitAt (k.dest c i j) u) = blitAt (k.dest c i j) (blitted c k.x0 k.cy v p (i, j) u)) :
    Sweeps (commandState c s) w h (k.dest c) visit rectAdvance (blitted c k.x0 k.cy v p) where
  noCpu := hcpu
  columns i j := by simp [BlitPlace.dest, hw]
  rows i j := by simp [BlitPlace.dest, hh]
  visits := hvisit
  draws q u hu := hu.blitted c k.x0 k.cy v p q hcpu
  along i j u hu hi := rectAdvance_along j hu.cmd_eq (by rw [hw]; exact Int.ofNat_lt.mpr hi)
  down j u hu := by
    obtain ⟨hbits, hpix⟩ := hu.noCpuData
    exact rectAdvance_down j hu.cmd_eq hw.symm hbits hpix

/-- A walk over the destination and the source sweeps its rectangle (R310, R320). -/
theorem sweeps_both {c : Half} {s : State} {k : BlitPlace} {w h : Nat} {v p : Int × Int → State → Option Word}
    {visit : State → State} (hcpu : takesCpu c = false) (hw : k.w = w) (hh : k.sy = h)
    (hvisit : ∀ (i j : Nat) u, OnlyDrew (commandState c s) u →
      visit (blitAt (k.both c i j) u) = blitAt (k.both c i j) (blitted c k.x0 k.cy v p (i, j) u)) :
    Sweeps (commandState c s) w h (k.both c) visit blitAdvance (blitted c k.x0 k.cy v p) where
  noCpu := hcpu
  columns i j := by simp [BlitPlace.both, BlitPlace.dest, hw]
  rows i j := by simp [BlitPlace.both, BlitPlace.dest, hh]
  visits := hvisit
  draws q u hu := hu.blitted c k.x0 k.cy v p q hcpu
  along i j u hu hi := blitAdvance_along j hu.cmd_eq (by rw [hw]; exact Int.ofNat_lt.mpr hi)
  down j u hu := by
    obtain ⟨hbits, hpix⟩ := hu.noCpuData
    exact blitAdvance_down j hu.cmd_eq hw.symm hbits hpix

/-! ### The three classes (R121) -/

theorem cmdPcdata_cmdWord (cls : BitVec 3) (o : CmdOpts) : cmdPcdata (cmdWord cls o) = o.pcdata := by
  simp only [cmdPcdata, cmdWord, BitVec.getLsbD_append]
  simp

theorem initOp_ropblt {s : State} (h : s.eng.cls = 4) : initOp s = ropInit s := by
  rw [initOp, h]
  rfl

theorem initOp_bitblt {s : State} (h : s.eng.cls = 6) : initOp s = blitInit s := by
  rw [initOp, h]
  rfl

theorem initOp_patfill {s : State} (h : s.eng.cls = 7) : initOp s = patInit s := by
  rw [initOp, h]
  rfl

theorem runOp_ropblt {s : State} (h : s.eng.cls = 4) : runOp s = ropRun s := by
  rw [runOp, h]
  rfl

theorem runOp_bitblt {s : State} (h : s.eng.cls = 6) : runOp s = blitRun s := by
  rw [runOp, h]
  rfl

theorem runOp_patfill {s : State} (h : s.eng.cls = 7) : runOp s = patRun s := by
  rw [runOp, h]
  rfl

end Sys2Proof.Machine

namespace Sys2Proof
open Sys2Proof.Machine

/-- Settles O52: each class sweeps the latched rectangle, a BitBlt with its source moving along, a pattern fill with the
source at rest; a step reads its source before its pixel is written, and the end stores no position. -/
theorem blitCommands : Obligations.BlitCommands := by
  unfold Obligations.BlitCommands
  intro s sp o hnow w h x y dx dy walks
  refine ⟨fun hpcdata hok => ?bitblt, fun hok => ?patfill⟩
  case bitblt =>
    let c := cmdWord 6 o
    let k : BlitPlace := (blitInit (commandState c s)).eng.blitPlace
    have hclass : cmdClass c = 6 := cmdClass_cmdWord 6 o
    have hgate : gate s.cfg.cap (cmdClass c) = true := by rw [hclass]; rfl
    have hcpu : takesCpu c = false := by
      rw [takesCpu, cmdPcdata_cmdWord, hpcdata]
      rfl
    exact blit_completes (visit := blitVisit) hnow hgate hok (k.both_zero c rfl rfl rfl)
      (congrArg activate (initOp_bitblt hclass)) (runOp_bitblt hclass)
      (sweeps_both (k := k) hcpu rfl rfl fun i j u _ => rfl)
  case patfill =>
    let c := cmdWord 7 o
    let k : BlitPlace := (patInit (commandState c s)).eng.blitPlace
    have hclass : cmdClass c = 7 := cmdClass_cmdWord 7 o
    have hgate : gate s.cfg.cap (cmdClass c) = true := by rw [hclass]; rfl
    have hcpu : takesCpu c = false := by
      apply takesCpu_of_cmdClass <;> rw [hclass] <;> decide
    refine blit_completes (visit := patVisit) hnow hgate hok (k.dest_zero c rfl rfl)
      (congrArg activate (initOp_patfill hclass)) (runOp_patfill hclass)
      (sweeps_dest (k := k) hcpu rfl rfl fun i j u _ => ?visit)
    case visit =>
      rw [patVisit, tilePixel_blitAt (tx := coord s.cfg s.regs.curX) (ty := coord s.cfg s.regs.curY) rfl rfl]
      rfl

/-- Settles O53: the sweep is a BitBlt's; only the pattern value stands beside the source, and drawing changes none of
the registers it is taken from. -/
theorem ropbltCommand : Obligations.RopbltCommand := by
  unfold Obligations.RopbltCommand
  intro s sp o c hnow hchip hok w h x y dx dy
  let k : BlitPlace := (ropInit (commandState c s)).eng.blitPlace
  have hclass : cmdClass c = 4 := cmdClass_cmdWord 4 o
  have hgate : gate s.cfg.cap (cmdClass c) = true := by rw [hclass]; exact hchip
  have hcpu : takesCpu c = false := by
    apply takesCpu_of_cmdClass <;> rw [hclass] <;> decide
  refine blit_completes (visit := ropVisit) hnow hgate hok (k.both_zero c rfl rfl rfl)
    (congrArg activate (initOp_ropblt hclass)) (runOp_ropblt hclass)
    (sweeps_both (k := k) hcpu rfl rfl fun i j u hu => ?visit)
  case visit =>
    have hpat : cmdPat8 u.eng.cmd = o.pat8 := by rw [hu.cmd_eq]; exact cmdPat8_cmdWord 4 o
    obtain ⟨m, ph, n, rfl⟩ := hu
    rw [ropVisit, State.ropPattern, ← hpat,
      tilePixel_blitAt (tx := coord s.cfg s.regs.curX2) (ty := coord s.cfg s.regs.curY2) rfl rfl]
    rfl

end Sys2Proof
end

section
/-!
PROOFS. The decoder and the encoder (spec/30_encoding.md): the three record formats are each other's inverse with the
encoder, and every well-formed bus operation is read by one of them.
-/
namespace Sys2Proof.Machine
open Laws.Canonical

/-! ### The bytes of a record -/

theorem word_of_bytes (v : Word) :
    v.extractLsb' 24 8 ++ (v.extractLsb' 16 8 ++ (v.extractLsb' 8 8 ++ v.extractLsb' 0 8)) = v := by
  ext i hi
  simp only [BitVec.getElem_append, BitVec.getElem_extractLsb']
  grind

theorem addr_of_bytes (a : BitVec 24) : a.extractLsb' 16 8 ++ (a.extractLsb' 8 8 ++ a.extractLsb' 0 8) = a := by
  ext i hi
  simp only [BitVec.getElem_append, BitVec.getElem_extractLsb']
  grind

theorem recordBytes_mk (b0 b1 b2 b3 b4 b5 b6 b7 : Byte) :
    recordBytes ⟨b0, b3 ++ (b2 ++ b1), b7 ++ (b6 ++ (b5 ++ b4))⟩ = [b0, b1, b2, b3, b4, b5, b6, b7] := by
  simp (disch := decide) only [recordBytes, BitVec.extractLsb'_append_eq_of_add_le,
    BitVec.extractLsb'_append_eq_of_le]
  simp only [Nat.reduceAdd, Nat.reduceSub, BitVec.extractLsb'_eq_self]

/-- A record at the head of a program is read as a whole. -/
theorem decode_recordBytes {r : Record} {i : Instr} (rest : List Byte) (h : decodeRecord r = .ok i) :
    decode (recordBytes r ++ rest) = .ok (i, rest) := by
  simp only [recordBytes, List.cons_append, List.nil_append, decode, addr_of_bytes, word_of_bytes, h]

/-- What is decoded stands at the head of the program as the bytes of a record. -/
theorem decode_eq_ok {bs rest : List Byte} {i : Instr} (h : decode bs = .ok (i, rest)) :
    ∃ r, decodeRecord r = .ok i ∧ recordBytes r ++ rest = bs := by
  unfold decode at h
  split at h
  · split at h
    · next j hrecord =>
      simp only [Except.ok.injEq, Prod.mk.injEq] at h
      obtain ⟨rfl, rfl⟩ := h
      exact ⟨_, hrecord, by rw [recordBytes_mk]; rfl⟩
    · simp at h
  · simp at h

/-! ### The control byte -/

theorem ctrl_format (fmt : BitVec 2) (sp : Space) (rd : Bool) (w : Width) :
    (ctrlByte fmt sp rd w).extractLsb' 5 2 = fmt := by
  cases sp <;> cases rd <;> cases w <;> revert fmt <;> decide

theorem ctrl_read (fmt : BitVec 2) (sp : Space) (rd : Bool) (w : Width) :
    (ctrlByte fmt sp rd w).getLsbD 2 = rd := by
  cases sp <;> cases rd <;> cases w <;> revert fmt <;> decide

/-- A control byte with its top bit clear is made of the four fields read from it. -/
theorem ctrlByte_of_fields {c : Byte} {w : Width} {sp : Space} (htop : c.getLsbD 7 = false)
    (hw : widthOf c = some w) (hsp : spaceOf c = some sp) :
    ctrlByte (c.extractLsb' 5 2) sp (c.getLsbD 2) w = c := by
  revert c
  cases w <;> cases sp <;> decide

/-- A record whose control byte is in form is read by its format, on its space, address and action. -/
theorem decodeRecord_ctrlByte (fmt : BitVec 2) (sp : Space) (rd : Bool) (w : Width) (a : BitVec 24) (v : Word)
    {act : BusAction} (h : actionOf ⟨ctrlByte fmt sp rd w, a, v⟩ w = .ok act) :
    decodeRecord ⟨ctrlByte fmt sp rd w, a, v⟩ = formatInstr fmt.toNat sp a act := by
  simp only [decodeRecord, ctrl_top, ctrl_width, ctrl_space, ctrl_format, h]
  rfl

/-- A record that is read has a control byte in form, and its format reads it. -/
theorem decodeRecord_eq_ok {r : Record} {i : Instr} (h : decodeRecord r = .ok i) :
    ∃ sp w act, r.ctrl = ctrlByte (r.ctrl.extractLsb' 5 2) sp (r.ctrl.getLsbD 2) w ∧ actionOf r w = .ok act ∧
      formatInstr (r.ctrl.extractLsb' 5 2).toNat sp r.addr act = .ok i := by
  unfold decodeRecord at h
  split at h
  · simp at h
  next htop =>
    split at h
    · simp at h
    next w hw =>
      split at h
      · simp at h
      next sp hsp =>
        split at h
        · simp at h
        next act hact =>
          exact ⟨sp, w, act, (ctrlByte_of_fields (by simpa using htop) hw hsp).symm, hact, h⟩

/-- The action of a record fits its width, and with the control byte's fields gives the record back. -/
theorem actionOf_eq_ok {r : Record} {w : Width} {act : BusAction} (h : actionOf r w = .ok act) :
    act.fits = true ∧ ((r.ctrl.getLsbD 2 = true ∧ act = .read w ∧ r.data = 0) ∨
      (r.ctrl.getLsbD 2 = false ∧ act = .write w r.data)) := by
  unfold actionOf at h
  split at h
  next hread =>
    split at h
    next hzero =>
      obtain rfl : BusAction.read w = act := by simpa using h
      exact ⟨rfl, .inl ⟨hread, rfl, hzero⟩⟩
    · simp at h
  next hwrite =>
    split at h
    next hfits =>
      obtain rfl : BusAction.write w r.data = act := by simpa using h
      exact ⟨hfits, .inr ⟨by simpa using hwrite, rfl⟩⟩
    · simp at h

/-! ### The `CMD` word and the stroke byte (R120, R121, R126) -/

theorem cmdOptsOf_cmdWord (cls : BitVec 3) (o : CmdOpts) : cmdOptsOf (cmdWord cls o) = o := by
  obtain ⟨swap, pat8, bus, pcdata, incY, ymaj, incX, draw, radial, lpn, rsv, wrtdata⟩ := o
  simp only [cmdOptsOf, cmdWord, CmdOpts.mk.injEq]
  refine ⟨?swap, ?pat8, ?bus, ?pcdata, ?incY, ?ymaj, ?incX, ?draw, ?radial, ?lpn, ?rsv, ?wrtdata⟩
  case bus =>
    ext i hi
    simp only [BitVec.getElem_extractLsb', BitVec.getLsbD_append]
    grind
  all_goals
    simp only [BitVec.getLsbD_append]
    simp

theorem cmdWord_cmdOptsOf (c : Half) : cmdWord (cmdClass c) (cmdOptsOf c) = c := by
  have hbit (b : Bool) (n : Nat) : (BitVec.ofBool b).getLsbD n = (decide (n = 0) && b) := by cases n <;> simp
  apply BitVec.eq_of_getLsbD_eq
  intro i hi
  simp only [cmdWord, cmdOptsOf, cmdClass, BitVec.getLsbD_append, hbit]
  interval_cases i <;> simp

theorem cmdInstr_cmdWord (sp : Space) (cls : BitVec 3) (o : CmdOpts) :
    cmdInstr sp (cmdWord cls o) =
      match cls.toNat with
      | 0 => .nop sp o
      | 1 => if o.radial then .lineRadial sp o else .line sp o
      | 2 => if o.pcdata then (if o.wrtdata then .rectCpu sp o else .rectRead sp o) else .rect sp o
      | 3 => if o.pat8 then .polyPat sp o else .polySolid sp o
      | 4 => .ropblt sp o
      | 5 => .polyline sp o
      | 6 => .bitblt sp o
      | _ => .patfill sp o := by
  simp only [cmdInstr, cmdOptsOf_cmdWord, cmdClass_cmdWord] <;> rfl

/-- The rows of a class are told apart by the fields of the word that `wf` fixes. -/
theorem wf_cmdInstr (sp : Space) (c : Half) :
    (cmdInstr sp c).wf = true ∧ encodeRecord (cmdInstr sp c) = cmdRecord sp c := by
  have hword := cmdWord_cmdOptsOf c
  unfold cmdInstr
  have hclass : ∀ k : BitVec 3, (cmdClass c).toNat = k.toNat → cmdWord k (cmdOptsOf c) = c := fun k hk => by
    rw [← BitVec.eq_of_toNat_eq hk, hword]
  simp only
  split
  next h => exact ⟨rfl, congrArg (cmdRecord sp) (hclass 0 h)⟩
  next h =>
    have he := congrArg (cmdRecord sp) (hclass 1 h)
    split <;> exact ⟨by simp_all [Instr.wf], he⟩
  next h =>
    have he := congrArg (cmdRecord sp) (hclass 2 h)
    split
    · split <;> exact ⟨by simp_all [Instr.wf], he⟩
    · exact ⟨by simp_all [Instr.wf], he⟩
  next h =>
    have he := congrArg (cmdRecord sp) (hclass 3 h)
    split <;> exact ⟨by simp_all [Instr.wf], he⟩
  next h => exact ⟨rfl, congrArg (cmdRecord sp) (hclass 4 h)⟩
  next h => exact ⟨rfl, congrArg (cmdRecord sp) (hclass 5 h)⟩
  next h => exact ⟨rfl, congrArg (cmdRecord sp) (hclass 6 h)⟩
  next =>
    have h7 : (cmdClass c).toNat = (7 : BitVec 3).toNat := by
      have hlt := (cmdClass c).isLt
      simp only [imp_false] at *
      show (cmdClass c).toNat = 7
      omega
    exact ⟨rfl, congrArg (cmdRecord sp) (hclass 7 h7)⟩

theorem strokeByte_of_fields (b : Byte) : strokeByte (b.extractLsb' 5 3) (b.getLsbD 4) (b.extractLsb' 0 4) = b := by
  revert b
  decide

theorem strokeInstr_strokeByte (sp : Space) (hi : Bool) (dir : BitVec 3) (draw : Bool) (len : BitVec 4) :
    strokeInstr sp hi (strokeByte dir draw len) = .ssv sp hi dir draw len := by
  obtain ⟨hdir, hdraw, hlen⟩ := strokeByte_fields dir draw len
  rw [strokeInstr, hdir, hdraw, hlen]

/-! ### Ports and packed offsets (R110, R117) -/

/-- A port that is found is the low or the high byte of its register. -/
theorem portAddr_of_findPort {a : Nat} {r : PortReg} {odd : Bool} (h : findPort a = some (r, odd)) :
    portAddr r odd = a := by
  have hlist : ∀ rs, findPortIn a rs = some (r, odd) → portAddr r odd = a := by
    intro rs
    induction rs with
    | nil => nofun
    | cons q rs ih =>
      intro hq
      unfold findPortIn at hq
      split at hq
      next heq =>
        obtain ⟨rfl, rfl⟩ : q = r ∧ false = odd := by simpa using hq
        exact heq.symm
      next =>
        split at hq
        next heq =>
          obtain ⟨rfl, rfl⟩ : q = r ∧ true = odd := by simpa using hq
          exact heq.symm
        next => exact ih hq
  exact hlist portRegs h

/-- A packed register that is found stands at its offset in the map. -/
theorem mem_of_findPacked {a : Nat} {k : PackedReg} {m : List (Nat × PackedReg)} (h : findPacked a m = some k) :
    (a, k) ∈ m := by
  induction m with
  | nil => nomatch h
  | cons p m ih =>
    obtain ⟨o, q⟩ := p
    unfold findPacked at h
    split at h
    next heq =>
      obtain rfl : q = k := by simpa using h
      rw [heq]
      exact List.mem_cons_self
    next => exact List.mem_cons_of_mem _ (ih h)

theorem packedOffset_of_findPacked {a : Nat} {k : PackedReg} (h : findPacked a defaultPackedMap = some k) :
    packedOffset k = a := by
  obtain ⟨q, -, hq⟩ := List.mem_map.mp (mem_of_findPacked h)
  simp only [Prod.mk.injEq] at hq
  obtain ⟨rfl, rfl⟩ := hq
  rfl

theorem findPacked_packedOffset (k : PackedReg) : findPacked (packedOffset k) defaultPackedMap = some k := by
  cases k <;> decide

/-! ### The rows of an access (R110 to R117) -/

/-- An access whose row is a bus operation of its own: well-formed, and with the record of the access. -/
def RowOf (i : Instr) (sp : Space) (a : Nat) (act : BusAction) : Prop :=
  i.wf = true ∧ encodeRecord i = accessRecord sp a act

theorem rowOf_outInstr (r : PortReg) (odd : Bool) {w : Width} {v : Word} (h : valueFits w v = true) :
    RowOf (outInstr r odd w v) .io (portAddr r odd) (.write w v) := by
  cases r <;> exact ⟨h, rfl⟩

theorem rowOf_inInstr (r : PortReg) (odd : Bool) (w : Width) :
    RowOf (inInstr r odd w) .io (portAddr r odd) (.read w) := by
  cases r <;> exact ⟨rfl, rfl⟩

theorem rowOf_packedWriteInstr (k : PackedReg) (win : Window) (v : Word) :
    RowOf (packedWriteInstr k win v) win.space (packedOffset k) (.write .w32 v) := by
  cases k <;> exact ⟨rfl, rfl⟩

theorem rowOf_packedReadInstr (k : PackedReg) (win : Window) :
    RowOf (packedReadInstr k win) win.space (packedOffset k) (.read .w32) := by
  cases k <;> exact ⟨rfl, rfl⟩

/-- The lane of a byte of the pixel-transfer port is its distance from the base. -/
theorem pixPortLo_add_lane {port : BitVec 16} (h : isPixPort port.toNat = true) :
    pixPortLo + (port.extractLsb' 0 2).toNat = port.toNat := by
  simp only [isPixPort, Bool.and_eq_true, decide_eq_true_eq] at h
  obtain ⟨hlo, hhi⟩ : 0xE2E8 ≤ port.toNat ∧ port.toNat ≤ 0xE2EB := h
  simp only [pixPortLo, BitVec.extractLsb'_toNat, Nat.shiftRight_zero]
  omega

theorem rowOf_ioInstr (port : BitVec 16) {act : BusAction} (h : act.fits = true) :
    RowOf (ioInstr port act) .io port.toNat act := by
  unfold ioInstr
  split
  next hpix =>
    have hport := pixPortLo_add_lane hpix
    split
    · exact ⟨h, congrArg (accessRecord .io · (.write _ _)) hport⟩
    · exact ⟨h, congrArg (accessRecord .io · (.read _)) hport⟩
  next hpix =>
    split
    next r odd hfind =>
      rw [← portAddr_of_findPort hfind]
      split
      · exact rowOf_outInstr r odd h
      · exact rowOf_inInstr r odd _
    next hfind => exact ⟨by simp [Instr.wf, isPort, hpix, hfind, h], rfl⟩

theorem rowOf_mmioRegInstr (win : Window) {off : BitVec 17} {act : BusAction} (hlo : 0x8000 ≤ off.toNat)
    (hhi : off.toNat < 0x10000) (h : act.fits = true) :
    RowOf (mmioRegInstr win off act) win.space off.toNat act := by
  unfold mmioRegInstr
  split
  next hfind => rw [← packedOffset_of_findPacked hfind]; exact rowOf_packedWriteInstr _ win _
  next hfind => rw [← packedOffset_of_findPacked hfind]; exact rowOf_packedReadInstr _ win
  next act _ _ hwrite hread =>
    have hplain : isPackedRow off.toNat act = false := by
      cases hfind : findPacked off.toNat defaultPackedMap with
      | none => simp [isPackedRow, hfind]
      | some k =>
        have hwidth : act.width ≠ .w32 := by
          rintro hw
          cases act with
          | write w v => cases hw; exact hwrite v k rfl hfind
          | read w => cases hw; exact hread k rfl hfind
        simp [isPackedRow, hwidth]
    exact ⟨by simp [Instr.wf, hlo, hhi, hplain, h], rfl⟩

theorem rowOf_mmioInstr (win : Window) {off : BitVec 17} {act : BusAction} (hin : off.toNat < spaceSize win.space)
    (h : act.fits = true) : RowOf (mmioInstr win off act) win.space off.toNat act := by
  unfold mmioInstr
  split
  next hpix => exact ⟨by simp [Instr.wf, hpix, h], rfl⟩
  next hpix =>
    split
    next hreg => exact rowOf_mmioRegInstr win (Nat.le_of_not_lt hpix) hreg h
    next hreg =>
      obtain rfl : win = .linear := by
        cases win with
        | legacy => exact absurd hin hreg
        | linear => rfl
      split
      next hmid => exact ⟨by simp [Instr.wf, Nat.le_of_not_lt hreg, hmid, h], rfl⟩
      next hmid => exact ⟨by simp [Instr.wf, Nat.le_of_not_lt hmid, h], rfl⟩

/-- The row of an access inside its space is well-formed and has the record of the access. -/
theorem rowOf_accessInstr {sp : Space} {addr : BitVec 24} {act : BusAction} (hin : addr.toNat < spaceSize sp)
    (h : act.fits = true) : RowOf (accessInstr sp addr act) sp addr.toNat act := by
  have hkeep (n : Nat) (hn : addr.toNat < 2 ^ n) : (addr.setWidth n).toNat = addr.toNat := by
    rw [BitVec.toNat_setWidth, Nat.mod_eq_of_lt hn]
  cases sp with
  | io =>
    have hrow := rowOf_ioInstr (addr.setWidth 16) h
    rwa [hkeep 16 hin] at hrow
  | legacyMmio =>
    have hport : (addr.setWidth 17).toNat = addr.toNat := hkeep 17 (Nat.lt_trans hin (by decide))
    have hrow := rowOf_mmioInstr .legacy (off := addr.setWidth 17) (by rw [hport]; exact hin) h
    rwa [hport] at hrow
  | newMmio =>
    have hport : (addr.setWidth 17).toNat = addr.toNat := hkeep 17 hin
    have hrow := rowOf_mmioInstr .linear (off := addr.setWidth 17) (by rw [hport]; exact hin) h
    rwa [hport] at hrow

/-! ### The three record formats -/

theorem setWidth_of_fits16 {v : Word} (h : valueFits .w16 v = true) : (v.setWidth 16).setWidth 32 = v := by
  have hlt : v.toNat < 2 ^ 16 := of_decide_eq_true h
  apply BitVec.eq_of_toNat_eq
  simp only [BitVec.toNat_setWidth]
  omega

theorem setWidth_of_fits8 {v : Word} (h : valueFits .w8 v = true) : (v.setWidth 8).setWidth 32 = v := by
  have hlt : v.toNat < 2 ^ 8 := of_decide_eq_true h
  apply BitVec.eq_of_toNat_eq
  simp only [BitVec.toNat_setWidth]
  omega

/-- What each format reads: an access, a `CMD` word or a stroke byte. -/
theorem formatInstr_eq_ok {fmt : BitVec 2} {sp : Space} {addr : BitVec 24} {act : BusAction} {i : Instr}
    (h : formatInstr fmt.toNat sp addr act = .ok i) :
    (fmt = 0 ∧ addr.toNat < spaceSize sp ∧ i = accessInstr sp addr act) ∨
      (fmt = 1 ∧ ∃ v, act = .write .w16 v ∧ addr = 0x9AE8 ∧ i = cmdInstr sp (v.setWidth 16)) ∨
      (fmt = 2 ∧ ∃ v hi, act = .write .w8 v ∧ addr = (if hi then 0x9EE9 else 0x9EE8) ∧
        i = strokeInstr sp hi (v.setWidth 8)) := by
  have hfmt : ∀ k : BitVec 2, fmt.toNat = k.toNat → fmt = k := fun k => BitVec.eq_of_toNat_eq
  unfold formatInstr at h
  split at h
  next h0 =>
    split at h
    next hin => exact .inl ⟨hfmt 0 h0, hin, by simpa using h.symm⟩
    · simp at h
  next h1 =>
    split at h
    next v =>
      split at h
      next haddr => exact .inr (.inl ⟨hfmt 1 h1, v, rfl, haddr, by simpa using h.symm⟩)
      · simp at h
    · simp at h
  next h2 =>
    split at h
    next v =>
      split at h
      next haddr => exact .inr (.inr ⟨hfmt 2 h2, v, false, rfl, haddr, by simpa using h.symm⟩)
      · split at h
        next haddr => exact .inr (.inr ⟨hfmt 2 h2, v, true, rfl, haddr, by simpa using h.symm⟩)
        · simp at h
    · simp at h
  · simp at h

/-- What a record is read as is well-formed, and the record is its own. -/
theorem decodeRecord_sound {r : Record} {i : Instr} (h : decodeRecord r = .ok i) :
    i.wf = true ∧ encodeRecord i = r := by
  obtain ⟨sp, w, act, hctrl, hact, hformat⟩ := decodeRecord_eq_ok h
  obtain ⟨hfits, haction⟩ := actionOf_eq_ok hact
  obtain ⟨ctrl, addr, data⟩ := r
  dsimp only at *
  rcases formatInstr_eq_ok hformat with ⟨hf, hin, rfl⟩ | ⟨hf, v, rfl, rfl, rfl⟩ | ⟨hf, v, hi, rfl, rfl, rfl⟩
  · obtain ⟨hwf, hrec⟩ := rowOf_accessInstr hin hfits
    refine ⟨hwf, ?_⟩
    rcases haction with ⟨hread, rfl, rfl⟩ | ⟨hwrite, rfl⟩
    · rw [hrec, hctrl, hf, hread]
      simp [accessRecord]
    · rw [hrec, hctrl, hf, hwrite]
      simp [accessRecord]
  · obtain ⟨hwf, hrec⟩ := wf_cmdInstr sp (v.setWidth 16)
    rcases haction with ⟨-, hno, -⟩ | ⟨hwrite, hv⟩
    · nomatch hno
    · obtain ⟨rfl, rfl⟩ : Width.w16 = w ∧ v = data := by simpa using hv
      refine ⟨hwf, ?_⟩
      rw [hrec, hctrl, hf, hwrite, cmdRecord, setWidth_of_fits16 hfits]
  · rcases haction with ⟨-, hno, -⟩ | ⟨hwrite, hv⟩
    · nomatch hno
    · obtain ⟨rfl, rfl⟩ : Width.w8 = w ∧ v = data := by simpa using hv
      refine ⟨rfl, ?_⟩
      rw [hctrl, hf, hwrite, strokeInstr, encodeRecord, strokeByte_of_fields, strokeRecord, setWidth_of_fits8 hfits]

/-! ### Every well-formed operation is read by a format -/

/-- The bus operations one of the three formats reads. -/
inductive Readable : Instr → Prop
  | command (sp : Space) (c : Half) : Readable (cmdInstr sp c)
  | stroke (sp : Space) (hi : Bool) (b : Byte) : Readable (strokeInstr sp hi b)
  | access {sp : Space} {addr : BitVec 24} {act : BusAction} (hin : addr.toNat < spaceSize sp)
      (hfits : act.fits = true) : Readable (accessInstr sp addr act)

theorem decodeRecord_cmdRecord (sp : Space) (c : Half) : decodeRecord (cmdRecord sp c) = .ok (cmdInstr sp c) := by
  have hfits : valueFits .w16 (c.setWidth 32) = true := by
    simp only [valueFits, decide_eq_true_eq, BitVec.toNat_setWidth]
    omega
  have hact : actionOf (cmdRecord sp c) .w16 = .ok (.write .w16 (c.setWidth 32)) := by
    simp only [actionOf, cmdRecord, ctrl_read, hfits, Bool.false_eq_true, if_false, if_true]
  have hword : (c.setWidth 32).setWidth 16 = c := BitVec.setWidth_setWidth_of_le c (by decide)
  calc decodeRecord (cmdRecord sp c)
      = formatInstr 1 sp 0x9AE8 (.write .w16 (c.setWidth 32)) := decodeRecord_ctrlByte 1 sp false .w16 _ _ hact
    _ = .ok (cmdInstr sp ((c.setWidth 32).setWidth 16)) := rfl
    _ = .ok (cmdInstr sp c) := by rw [hword]

theorem decodeRecord_strokeRecord (sp : Space) (hi : Bool) (b : Byte) :
    decodeRecord (strokeRecord sp hi b) = .ok (strokeInstr sp hi b) := by
  have hfits : valueFits .w8 (b.setWidth 32) = true := by
    simp only [valueFits, decide_eq_true_eq, BitVec.toNat_setWidth]
    omega
  have hact : actionOf (strokeRecord sp hi b) .w8 = .ok (.write .w8 (b.setWidth 32)) := by
    simp only [actionOf, strokeRecord, ctrl_read, hfits, Bool.false_eq_true, if_false, if_true]
  have hbyte : (b.setWidth 32).setWidth 8 = b := BitVec.setWidth_setWidth_of_le b (by decide)
  calc decodeRecord (strokeRecord sp hi b)
      = formatInstr 2 sp (if hi then 0x9EE9 else 0x9EE8) (.write .w8 (b.setWidth 32)) :=
        decodeRecord_ctrlByte 2 sp false .w8 _ _ hact
    _ = .ok (strokeInstr sp hi ((b.setWidth 32).setWidth 8)) := by cases hi <;> rfl
    _ = .ok (strokeInstr sp hi b) := by rw [hbyte]

theorem decodeRecord_accessRecord {sp : Space} {addr : BitVec 24} {act : BusAction} (hin : addr.toNat < spaceSize sp)
    (hfits : act.fits = true) : decodeRecord (accessRecord sp addr.toNat act) = .ok (accessInstr sp addr act) := by
  have hformat : formatInstr 0 sp addr act = .ok (accessInstr sp addr act) := if_pos hin
  cases act with
  | write w v =>
    have hact : actionOf ⟨ctrlByte 0 sp false w, addr, v⟩ w = .ok (.write w v) := by
      have hvalue : valueFits w v = true := hfits
      simp only [actionOf, ctrl_read, hvalue, Bool.false_eq_true, if_false, if_true]
    rw [accessRecord, BitVec.ofNat_toNat, BitVec.setWidth_eq, decodeRecord_ctrlByte 0 sp false w _ _ hact]
    exact hformat
  | read w =>
    have hact : actionOf ⟨ctrlByte 0 sp true w, addr, 0⟩ w = .ok (.read w) := by
      simp only [actionOf, ctrl_read, if_true]
    rw [accessRecord, BitVec.ofNat_toNat, BitVec.setWidth_eq, decodeRecord_ctrlByte 0 sp true w _ _ hact]
    exact hformat

/-- A bus operation a format reads is read from its own record. -/
theorem Readable.decodeRecord_encodeRecord {i : Instr} (h : Readable i) : decodeRecord (encodeRecord i) = .ok i := by
  cases h with
  | command sp c =>
    obtain ⟨-, hrec⟩ := wf_cmdInstr sp c
    rw [hrec, decodeRecord_cmdRecord]
  | stroke sp hi b =>
    rw [← decodeRecord_strokeRecord, strokeInstr, encodeRecord, strokeByte_of_fields]
  | access hin hfits =>
    obtain ⟨-, hrec⟩ := rowOf_accessInstr hin hfits
    rw [hrec, decodeRecord_accessRecord hin hfits]

/-- The command of a class, with its fields, where the class's rows leave no choice but this one. -/
theorem readable_command {i : Instr} {sp : Space} {cls : BitVec 3} {o : CmdOpts}
    (h : cmdInstr sp (cmdWord cls o) = i) : Readable i := h ▸ .command sp _

theorem readable_access {i : Instr} {sp : Space} {a : Nat} {act : BusAction} (hin : a < spaceSize sp)
    (hfits : act.fits = true) (h : accessInstr sp (BitVec.ofNat 24 a) act = i) : Readable i := by
  have haddr : (BitVec.ofNat 24 a).toNat = a := by
    have hsize : spaceSize sp ≤ 2 ^ 24 := by cases sp <;> decide
    rw [BitVec.toNat_ofNat, Nat.mod_eq_of_lt (Nat.lt_of_lt_of_le hin hsize)]
  exact h ▸ .access (haddr.symm ▸ hin) hfits

/-- An I/O access at a register's port has the register's row. -/
theorem ioInstr_portAddr (r : PortReg) (odd : Bool) (act : BusAction) :
    accessInstr .io (BitVec.ofNat 24 (portAddr r odd)) act =
      match act with
      | .write w v => outInstr r odd w v
      | .read w => inInstr r odd w := by
  have hport : ((BitVec.ofNat 24 (portAddr r odd)).setWidth 16).toNat = portAddr r odd := by
    cases r <;> cases odd <;> decide
  simp only [accessInstr, ioInstr, hport, not_pixPort, findPort_portAddr] <;> rfl

theorem readable_outInstr (r : PortReg) (odd : Bool) {w : Width} {v : Word} (h : valueFits w v = true) :
    Readable (outInstr r odd w v) :=
  readable_access (port_lt r odd) (act := .write w v) h (ioInstr_portAddr r odd _)

theorem readable_inInstr (r : PortReg) (odd : Bool) (w : Width) : Readable (inInstr r odd w) :=
  readable_access (port_lt r odd) (act := .read w) rfl (ioInstr_portAddr r odd _)

theorem accessInstr_window (win : Window) {off : BitVec 17} (act : BusAction) :
    accessInstr win.space (BitVec.ofNat 24 off.toNat) act = mmioInstr win off act := by
  have hoff : (BitVec.ofNat 24 off.toNat).setWidth 17 = off := by
    apply BitVec.eq_of_toNat_eq
    have hlt := off.isLt
    simp only [BitVec.toNat_setWidth, BitVec.toNat_ofNat]
    omega
  cases win <;> simp only [accessInstr, Window.space, hoff]

/-- The rows of a 32-bit access at a packed register's offset (R117). -/
theorem mmioInstr_packedOffset (k : PackedReg) (win : Window) (v : Word) :
    accessInstr win.space (BitVec.ofNat 24 (packedOffset k)) (.write .w32 v) = packedWriteInstr k win v ∧
      accessInstr win.space (BitVec.ofNat 24 (packedOffset k)) (.read .w32) = packedReadInstr k win := by
  obtain ⟨hlo, hhi⟩ := packedOffset_range k
  have hoff : (BitVec.ofNat 17 (packedOffset k)).toNat = packedOffset k := by
    rw [BitVec.toNat_ofNat, Nat.mod_eq_of_lt (Nat.lt_trans hhi (by decide))]
  have hinstr (act : BusAction) : accessInstr win.space (BitVec.ofNat 24 (packedOffset k)) act =
      mmioRegInstr win (BitVec.ofNat 17 (packedOffset k)) act := by
    have hwindow := accessInstr_window win (off := BitVec.ofNat 17 (packedOffset k)) act
    rw [hoff] at hwindow
    rw [hwindow, mmioInstr, hoff, if_neg (Nat.not_lt.mpr hlo), if_pos hhi]
  simp only [hinstr, mmioRegInstr, hoff, findPacked_packedOffset, and_self]

theorem readable_packedWriteInstr (k : PackedReg) (win : Window) (v : Word) : Readable (packedWriteInstr k win v) :=
  readable_access (packed_lt k win) (act := .write .w32 v) rfl (mmioInstr_packedOffset k win v).1

theorem readable_packedReadInstr (k : PackedReg) (win : Window) : Readable (packedReadInstr k win) :=
  readable_access (packed_lt k win) (act := .read .w32) rfl (mmioInstr_packedOffset k win 0).2

/-- An access at a byte of the pixel-transfer port. -/
theorem ioInstr_pixPort (lane : BitVec 2) (act : BusAction) :
    accessInstr .io (BitVec.ofNat 24 (pixPortLo + lane.toNat)) act =
      match act with
      | .write w v => .outPixTrans lane w v
      | .read w => .inPixTrans lane w := by
  have hport : isPixPort ((BitVec.ofNat 24 (pixPortLo + lane.toNat)).setWidth 16).toNat = true ∧
      ((BitVec.ofNat 24 (pixPortLo + lane.toNat)).setWidth 16).extractLsb' 0 2 = lane := by
    revert lane
    decide
  obtain ⟨hpix, hlane⟩ := hport
  simp only [accessInstr, ioInstr, hpix, hlane, if_true] <;> rfl

theorem pixPort_lt (lane : BitVec 2) : pixPortLo + lane.toNat < spaceSize .io := by
  revert lane
  decide

/-- A port outside the port map has the row of an unmapped port. -/
theorem ioInstr_unmapped {port : BitVec 16} (act : BusAction) (h : isPort port.toNat = false) :
    accessInstr .io (BitVec.ofNat 24 port.toNat) act = .ioUnmapped port act := by
  have hport : (BitVec.ofNat 24 port.toNat).setWidth 16 = port := by
    apply BitVec.eq_of_toNat_eq
    have hlt := port.isLt
    simp only [BitVec.toNat_setWidth, BitVec.toNat_ofNat]
    omega
  simp only [isPort, Bool.or_eq_false_iff, Option.isSome_eq_false_iff, Option.isNone_iff_eq_none] at h
  obtain ⟨hpix, hfind⟩ := h
  simp only [accessInstr, ioInstr, hport, hpix, hfind]
  rfl

/-- A mirrored offset whose access is no packed one has the row of the mirror. -/
theorem mmioInstr_mirror (win : Window) {off : BitVec 17} {act : BusAction} (hlo : 0x8000 ≤ off.toNat)
    (hhi : off.toNat < 0x10000) (h : isPackedRow off.toNat act = false) :
    mmioInstr win off act = .mmioReg win off act := by
  rw [mmioInstr, if_neg (Nat.not_lt.mpr hlo), if_pos hhi]
  unfold mmioRegInstr
  split
  next hfind => simp [isPackedRow, hfind, BusAction.width] at h
  next hfind => simp [isPackedRow, hfind, BusAction.width] at h
  next => rfl

/-- Every well-formed bus operation is read by a format. -/
theorem readable_of_wf {i : Instr} (h : i.wf = true) : Readable i := by
  cases i with
  | nop sp o => exact readable_command (cmdInstr_cmdWord sp 0 o)
  | line sp o =>
    have hradial : o.radial = false := by simpa [Instr.wf] using h
    exact readable_command ((cmdInstr_cmdWord sp 1 o).trans (by simp [hradial]))
  | lineRadial sp o =>
    have hradial : o.radial = true := h
    exact readable_command ((cmdInstr_cmdWord sp 1 o).trans (by simp [hradial]))
  | rect sp o =>
    have hpcdata : o.pcdata = false := by simpa [Instr.wf] using h
    exact readable_command ((cmdInstr_cmdWord sp 2 o).trans (by simp [hpcdata]))
  | rectCpu sp o =>
    obtain ⟨hpcdata, hwrtdata⟩ : o.pcdata = true ∧ o.wrtdata = true := by simpa [Instr.wf] using h
    exact readable_command ((cmdInstr_cmdWord sp 2 o).trans (by simp [hpcdata, hwrtdata]))
  | rectRead sp o =>
    obtain ⟨hpcdata, hwrtdata⟩ : o.pcdata = true ∧ o.wrtdata = false := by simpa [Instr.wf] using h
    exact readable_command ((cmdInstr_cmdWord sp 2 o).trans (by simp [hpcdata, hwrtdata]))
  | polySolid sp o =>
    have hpat8 : o.pat8 = false := by simpa [Instr.wf] using h
    exact readable_command ((cmdInstr_cmdWord sp 3 o).trans (by simp [hpat8]))
  | polyPat sp o =>
    have hpat8 : o.pat8 = true := h
    exact readable_command ((cmdInstr_cmdWord sp 3 o).trans (by simp [hpat8]))
  | ropblt sp o => exact readable_command (cmdInstr_cmdWord sp 4 o)
  | polyline sp o => exact readable_command (cmdInstr_cmdWord sp 5 o)
  | bitblt sp o => exact readable_command (cmdInstr_cmdWord sp 6 o)
  | patfill sp o => exact readable_command (cmdInstr_cmdWord sp 7 o)
  | ssv sp hi dir draw len => exact strokeInstr_strokeByte sp hi dir draw len ▸ .stroke sp hi _
  | outSubsysCntl odd w v => exact readable_outInstr .subsys odd h
  | inSubsysStat odd w => exact readable_inInstr .subsys odd w
  | outAdvfuncCntl odd w v => exact readable_outInstr .advfunc odd h
  | inAdvfuncCntl odd w => exact readable_inInstr .advfunc odd w
  | outCurY odd w v => exact readable_outInstr .curY odd h
  | inCurY odd w => exact readable_inInstr .curY odd w
  | outCurX odd w v => exact readable_outInstr .curX odd h
  | inCurX odd w => exact readable_inInstr .curX odd w
  | outDestyAxstp odd w v => exact readable_outInstr .destyAxstp odd h
  | inDestyAxstp odd w => exact readable_inInstr .destyAxstp odd w
  | outDestxDiastp odd w v => exact readable_outInstr .destxDiastp odd h
  | inDestxDiastp odd w => exact readable_inInstr .destxDiastp odd w
  | outErrTerm odd w v => exact readable_outInstr .errTerm odd h
  | inErrTerm odd w => exact readable_inInstr .errTerm odd w
  | outMajAxisPcnt odd w v => exact readable_outInstr .majAxisPcnt odd h
  | inMajAxisPcnt odd w => exact readable_inInstr .majAxisPcnt odd w
  | outCmd odd w v => exact readable_outInstr .cmd odd h
  | inGpStat odd w => exact readable_inInstr .cmd odd w
  | outShortStroke odd w v => exact readable_outInstr .shortStroke odd h
  | inShortStroke odd w => exact readable_inInstr .shortStroke odd w
  | outBkgdColor odd w v => exact readable_outInstr .bkgdColor odd h
  | inBkgdColor odd w => exact readable_inInstr .bkgdColor odd w
  | outFrgdColor odd w v => exact readable_outInstr .frgdColor odd h
  | inFrgdColor odd w => exact readable_inInstr .frgdColor odd w
  | outWrtMask odd w v => exact readable_outInstr .wrtMask odd h
  | inWrtMask odd w => exact readable_inInstr .wrtMask odd w
  | outRdMask odd w v => exact readable_outInstr .rdMask odd h
  | inRdMask odd w => exact readable_inInstr .rdMask odd w
  | outColorCmp odd w v => exact readable_outInstr .colorCmp odd h
  | inColorCmp odd w => exact readable_inInstr .colorCmp odd w
  | outBkgdMix odd w v => exact readable_outInstr .bkgdMix odd h
  | inBkgdMix odd w => exact readable_inInstr .bkgdMix odd w
  | outFrgdMix odd w v => exact readable_outInstr .frgdMix odd h
  | inFrgdMix odd w => exact readable_inInstr .frgdMix odd w
  | outMultifunc odd w v => exact readable_outInstr .multifunc odd h
  | inMultifunc odd w => exact readable_inInstr .multifunc odd w
  | outCurY2 odd w v => exact readable_outInstr .curY2 odd h
  | inCurY2 odd w => exact readable_inInstr .curY2 odd w
  | outCurX2 odd w v => exact readable_outInstr .curX2 odd h
  | inCurX2 odd w => exact readable_inInstr .curX2 odd w
  | outDesty2 odd w v => exact readable_outInstr .desty2 odd h
  | inDesty2 odd w => exact readable_inInstr .desty2 odd w
  | outDestx2 odd w v => exact readable_outInstr .destx2 odd h
  | inDestx2 odd w => exact readable_inInstr .destx2 odd w
  | outPixTrans lane w v => exact readable_access (pixPort_lt lane) (act := .write w v) h (ioInstr_pixPort lane _)
  | inPixTrans lane w => exact readable_access (pixPort_lt lane) (act := .read w) rfl (ioInstr_pixPort lane _)
  | ioUnmapped port act =>
    obtain ⟨hport, hfits⟩ : isPort port.toNat = false ∧ act.fits = true := by simpa [Instr.wf] using h
    exact readable_access port.isLt hfits (ioInstr_unmapped act hport)
  | mmioPixTrans win off act =>
    obtain ⟨hpix, hfits⟩ : off.toNat < 0x8000 ∧ act.fits = true := by simpa [Instr.wf] using h
    exact readable_access (window_lt win _ (Nat.lt_trans hpix (by decide))) hfits
      ((accessInstr_window win act).trans (if_pos hpix))
  | mmioReg win off act =>
    obtain ⟨⟨⟨hlo, hhi⟩, hplain⟩, hfits⟩ : ((0x8000 ≤ off.toNat ∧ off.toNat < 0x10000) ∧
        isPackedRow off.toNat act = false) ∧ act.fits = true := by simpa [Instr.wf] using h
    exact readable_access (window_lt win _ hhi) hfits
      ((accessInstr_window win act).trans (mmioInstr_mirror win hlo hhi hplain))
  | mw32PkBkgdColor win v => exact readable_packedWriteInstr .bkgdColor win v
  | mr32PkBkgdColor win => exact readable_packedReadInstr .bkgdColor win
  | mw32PkFrgdColor win v => exact readable_packedWriteInstr .frgdColor win v
  | mr32PkFrgdColor win => exact readable_packedReadInstr .frgdColor win
  | mw32PkWrtMask win v => exact readable_packedWriteInstr .wrtMask win v
  | mr32PkWrtMask win => exact readable_packedReadInstr .wrtMask win
  | mw32PkRdMask win v => exact readable_packedWriteInstr .rdMask win v
  | mr32PkRdMask win => exact readable_packedReadInstr .rdMask win
  | mw32PkColorCmp win v => exact readable_packedWriteInstr .colorCmp win v
  | mr32PkColorCmp win => exact readable_packedReadInstr .colorCmp win
  | mw32PkMix win v => exact readable_packedWriteInstr .mix win v
  | mr32PkMix win => exact readable_packedReadInstr .mix win
  | mw32PkScissorsTl win v => exact readable_packedWriteInstr .scissorsTl win v
  | mr32PkScissorsTl win => exact readable_packedReadInstr .scissorsTl win
  | mw32PkScissorsBr win v => exact readable_packedWriteInstr .scissorsBr win v
  | mr32PkScissorsBr win => exact readable_packedReadInstr .scissorsBr win
  | mw32PkPixCntlMisc2 win v => exact readable_packedWriteInstr .pixCntlMisc2 win v
  | mr32PkPixCntlMisc2 win => exact readable_packedReadInstr .pixCntlMisc2 win
  | mw32PkMultMiscRdsel win v => exact readable_packedWriteInstr .multMiscRdsel win v
  | mr32PkMultMiscRdsel win => exact readable_packedReadInstr .multMiscRdsel win
  | mmioUnmapped off act =>
    obtain ⟨⟨hlo, hhi⟩, hfits⟩ : (0x10000 ≤ off.toNat ∧ off.toNat < 0x18000) ∧ act.fits = true := by
      simpa [Instr.wf] using h
    refine readable_access (sp := .newMmio) off.isLt hfits ((accessInstr_window .linear act).trans ?_)
    rw [mmioInstr, if_neg (by omega), if_neg (by omega), if_pos hhi]
  | mmioStreams off act =>
    obtain ⟨hlo, hfits⟩ : 0x18000 ≤ off.toNat ∧ act.fits = true := by simpa [Instr.wf] using h
    refine readable_access (sp := .newMmio) off.isLt hfits ((accessInstr_window .linear act).trans ?_)
    rw [mmioInstr, if_neg (by omega), if_neg (by omega), if_neg (by omega)]

end Sys2Proof.Machine

namespace Sys2Proof
open Sys2Proof.Machine

/-- Settles O1: a well-formed operation is read by one of the three formats, and each reads its own records. -/
theorem encodeDecode : Obligations.EncodeDecode := by
  unfold Obligations.EncodeDecode
  intro i rest hwf
  exact decode_recordBytes rest (readable_of_wf hwf).decodeRecord_encodeRecord

/-- Settles O2: a record is read by its format, which keeps each of its fields. -/
theorem decodeEncode : Obligations.DecodeEncode := by
  unfold Obligations.DecodeEncode
  intro bs i rest h
  obtain ⟨r, hr, hbytes⟩ := decode_eq_ok h
  obtain ⟨hwf, hrec⟩ := decodeRecord_sound hr
  exact ⟨hwf, by rw [encode, hrec, hbytes]⟩

/-- Settles O3: each word is decoded by evaluation. -/
theorem decodeWords : Obligations.DecodeWords := by
  unfold Obligations.DecodeWords
  exact ⟨fun _ => rfl, fun _ => rfl, fun _ => rfl, fun _ => rfl, fun _ => rfl⟩

end Sys2Proof
end

section
/-!
PROOFS. What one step of the machine can do, said once: an access of the host, a drain, new signals or a device reset
(spec/00_scope.md R15, R16); then what no step changes (spec/10_state.md R65, spec/60_exceptions.md R400) and what the
FIFO keeps (spec/41_fifo.md R194, R200).
-/
namespace Sys2Proof.Machine

/-! ### The moves of the machine -/

/-- What the host can do with an access, from a state `s` whose host side alone may have changed before. -/
inductive Access (s : State) : Result → Prop
  /-- only the host side changes: the part is held, dropped, or there is nothing to do -/
  | rests (h : HostSide) : Access s (.next { s with host := h })
  /-- a write goes into the FIFO, which has room (R192) -/
  | queued (h : HostSide) (e : FifoEntry) (hroom : s.fifo.full = false) :
      Access s (.next (pushEntry e { s with host := h }))
  /-- a write is dispatched (R150) -/
  | written (h : HostSide) (t : Target) (w : Width) (v : Word) : Access s (dispatch t w v { s with host := h })
  /-- a read returns, or keeps what it has read (R170) -/
  | returned (h h' : HostSide) (t : Target) (w : Width) :
      Access s (.next { (readValue t w { s with host := h }).2 with host := h' })
  /-- the access is refused by name (R404) -/
  | refused (r : Refusal) : Access s (.refused r)

/-- What a step can do. -/
inductive Move (s : State) : Result → Prop
  | access {r : Result} (ha : Access s r) : Move s r
  /-- one drain of the FIFO (R194) -/
  | drained (h : HostSide) (hpos : 0 < s.fifo.entries) : Move s (drain { s with host := h })
  /-- new input signals (R190) -/
  | signals (h : HostSide) (i : Inputs) : Move s (.next { s with inputs := i, host := h })
  /-- the device reset (R450) -/
  | reset (h : HostSide) (held : Bool) : Move s (.next (deviceReset held { s with host := h }))
  /-- the bytes at the head of the program are no record (assumption log entry 1) -/
  | malformed (e : DecodeError) (h : decode s.host.program = .error e) : Move s (.fault (.malformedRecord e))

/-- The host side before an access does not matter to what the access can do. -/
theorem Access.of_host {s : State} {h : HostSide} {r : Result} (ha : Access { s with host := h } r) : Access s r := by
  cases ha with
  | rests h => exact .rests h
  | queued h e hroom => exact .queued h e hroom
  | written h t w v => exact .written h t w v
  | returned h h' t w => exact .returned h h' t w
  | refused r => exact .refused r

theorem access_runPart (p : Part) (s : State) : Access s (runPart p s) := by
  cases hheld : s.held p with
  | true => rw [runPart_held p s hheld]; exact .rests _
  | false =>
    cases hact : p.act with
    | write w v =>
      rw [runPart_write p s w v hact hheld, writePart]
      split
      next hroute =>
        have hroom : s.fifo.full = false := by rwa [State.held, hroute, blocks_queued] at hheld
        exact .queued s.host _ hroom
      · exact .written s.host _ w v
      · exact .written s.host _ w v
    | read w =>
      rw [runPart_read p s w hact hheld]
      unfold readAccess
      split
      · exact .refused _
      · simp only
        split
        · exact .returned s.host _ _ w
        · exact .returned s.host _ _ w

theorem access_hostAccess (sp : Space) (a : Nat) (act : BusAction) (s : State) : Access s (hostAccess sp a act s) := by
  unfold hostAccess
  split
  · split
    · exact .rests s.host
    · exact (access_runPart _ _).of_host
  · cases act with
    | write w v => exact .rests s.host
    | read w => exact .rests _

theorem access_exec (i : Instr) (s : State) : Access s (exec i s) := by
  rw [exec_access]
  exact access_hostAccess ..

/-- Nothing is decoded where the program has ended. -/
theorem move_hostStep (s : State) : Move s (hostStep s) := by
  unfold hostStep
  split
  · unfold issueNext
    split
    · exact .access (.rests s.host)
    · split
      next i rest _ => exact .access (access_exec i (withProgram rest s)).of_host
      next e he => exact .malformed e he
  · unfold advancePart
    split
    · exact .access (access_runPart _ _).of_host
    · exact .access (.rests s.host)

theorem move_engineStep (s : State) : Move s (engineStep s) := by
  unfold engineStep
  split
  next hpos => exact .drained s.host hpos
  next => exact .access (.rests s.host)

/-- Taking a turn from the list leaves a move a move. -/
theorem Move.of_withSched {s : State} {ts : List Turn} {r : Result} (hm : Move (withSched ts s) r) : Move s r := by
  cases hm with
  | access ha => exact .access ha.of_host
  | drained h hpos => exact .drained h hpos
  | signals h i => exact .signals h i
  | reset h held => exact .reset h held
  | malformed e h => exact .malformed e h

/-- Every step is one of the moves. -/
theorem step_move (s : State) : Move s (step s) := by
  unfold step stepOnce
  split
  · unfold autoStep
    split
    · exact move_hostStep s
    · exact move_engineStep s
  next t ts _ =>
    refine Move.of_withSched (ts := ts) ?_
    cases t with
    | host => exact move_hostStep _
    | engine => exact move_engineStep _
    | deviceReset => exact .reset _ _
    | signals i => exact .signals _ i

/-- What a step keeps: it is enough that each move keeps it. -/
structure KeptByMoves (P : State → Prop) : Prop where
  host : ∀ {s} h, P s → P { s with host := h }
  queued : ∀ {s} e, s.fifo.full = false → P s → P (pushEntry e s)
  written : ∀ {s t} d w v, P s → dispatch d w v s = .next t → P t
  returned : ∀ {s} d w, P s → P (readValue d w s).2
  drained : ∀ {s t}, 0 < s.fifo.entries → P s → drain s = .next t → P t
  signals : ∀ {s} i, P s → P { s with inputs := i }
  reset : ∀ {s} held, P s → P (deviceReset held s)

theorem KeptByMoves.step {P : State → Prop} (k : KeptByMoves P) {s t : State} (hs : P s)
    (hstep : Machine.step s = .next t) : P t := by
  have hmove := step_move s
  generalize Machine.step s = r at hmove hstep
  cases hmove with
  | access ha =>
    cases ha with
    | rests h => cases hstep; exact k.host h hs
    | queued h e hroom => cases hstep; exact k.queued e hroom (k.host h hs)
    | written h d w v => exact k.written d w v (k.host h hs) hstep
    | returned h h' d w => cases hstep; exact k.host h' (k.returned d w (k.host h hs))
    | refused r => nomatch hstep
  | drained h hpos => exact k.drained (s := { s with host := h }) hpos (k.host h hs) hstep
  | signals h i => cases hstep; exact k.signals i (k.host h hs)
  | reset h held => cases hstep; exact k.reset held (k.host h hs)
  | malformed e h => nomatch hstep

/-- A drain keeps what the pop, the application of the entry and the end of the drain keep. -/
theorem drain_keeps {P : State → Prop} (hpop : ∀ {s}, P s → P (popEntry s))
    (hwrite : ∀ {s t} d w v, P s → dispatch d w v s = .next t → P t) (hend : ∀ {s}, P s → P (endDrain s))
    {s t : State} (hs : P s) (h : drain s = .next t) : P t := by
  have happly {u : State} (hu : applyEntry s.fifo.head (popEntry s) = .next u) : P u := by
    unfold applyEntry at hu
    split at hu
    · cases hu; exact hpop hs
    · exact hwrite _ _ _ (hpop hs) hu
  cases he : applyEntry s.fifo.head (popEntry s) with
  | next u =>
    rw [drain_of_applyEntry he] at h
    cases h
    exact hend (happly he)
  | fault r => rw [drain, he] at h; nomatch h
  | refused r => rw [drain, he] at h; nomatch h

/-! ### The session and the faults (R65, R400) -/

theorem KeepsContext.next {s t : State} {r : Result} (h : KeepsContext s r) (hr : r = .next t) :
    contextOf t = contextOf s := by
  rcases h with ⟨u, hu, hcontext⟩ | ⟨e, he⟩
  · rw [hr] at hu
    cases hu
    exact hcontext
  · rw [hr] at he
    nomatch he

theorem KeepsContext.ne_fault {s : State} {r : Result} (h : KeepsContext s r) (f : Fault) : r ≠ .fault f := by
  rcases h with ⟨u, rfl, -⟩ | ⟨e, rfl⟩ <;> nofun

/-- What a context holds beside the host side. -/
theorem context_eq {s t : State} (h : contextOf t = contextOf s) :
    t.cfg = s.cfg ∧ t.inputs = s.inputs ∧ t.fifo = s.fifo := by
  simp only [contextOf, Prod.mk.injEq] at h
  obtain ⟨hcfg, hinputs, hfifo, -⟩ := h
  exact ⟨hcfg, hinputs, hfifo⟩

theorem sameContext_readPix (lane k n : Nat) (s : State) : sameContext s (readPix lane k n s).2 := by
  induction n generalizing k s with
  | zero => exact .refl s
  | succ n ih => exact (sameContext_readPixByte (lane + k) s).trans (ih (k + 1) _)

/-- A read leaves the session, the signals, the FIFO and the host side alone. -/
theorem sameContext_readValue (d : Target) (w : Width) (s : State) : sameContext s (readValue d w s).2 := by
  cases d with
  | reg r part => cases r <;> cases part <;> exact ⟨rfl, rfl, rfl, rfl⟩
  | packed k => exact .refl s
  | pix lane => exact sameContext_readPix lane 0 _ s
  | unmapped => exact .refl s
  | streams => exact .refl s

theorem Access.ne_fault {s : State} {r : Result} (ha : Access s r) (f : Fault) : r ≠ .fault f := by
  cases ha with
  | written h t w v => exact (keeps_dispatch t w v _).ne_fault f
  | _ => nofun

theorem drain_ne_fault (s : State) (f : Fault) : drain s ≠ .fault f := by
  rcases drain_cases s with ⟨t, h, -⟩ | ⟨e, h⟩ <;> rw [h] <;> nofun

/-- A drain leaves the session alone and pops the head. -/
theorem drain_next {s t : State} (h : drain s = .next t) :
    t.cfg = s.cfg ∧ t.fifo = { s.fifo with readIdx := s.fifo.readIdx + 1, busy := false } := by
  rcases drain_cases s with ⟨u, hu, hcfg, -, hfifo, -⟩ | ⟨e, he⟩
  · rw [h] at hu
    cases hu
    exact ⟨hcfg, hfifo⟩
  · rw [h] at he
    nomatch he

theorem cfg_keptByMoves (c : Config) : KeptByMoves (fun s => s.cfg = c) where
  host _ hs := hs
  queued _ _ hs := hs
  written d w v hs h := (context_eq ((keeps_dispatch d w v _).next h)).1.trans hs
  returned {s} d w hs := (sameContext_readValue d w s).1.trans hs
  drained _ hs h := (drain_next h).1.trans hs
  signals _ hs := hs
  reset _ hs := hs

/-! ### The FIFO (R194, R200) -/

/-- A FIFO that is not full keeps within its capacity when an entry is put into it. -/
theorem entries_push {f : Fifo} (e : FifoEntry) (h : f.entries < Config.fifoSize) :
    (f.push e).entries = f.entries + 1 := by
  have hlt : f.entries < 65536 := h
  unfold Fifo.entries Fifo.push at *
  bv_omega

theorem fifoOk_keptByMoves : KeptByMoves FifoOk where
  host _ hs := hs
  queued {s} e hroom hs := by
    obtain ⟨-, hbusy, hring⟩ := hs
    have hlt : s.fifo.entries < Config.fifoSize - Config.fifoHeadroom := 
      Nat.lt_of_not_le (of_decide_eq_false hroom)
    have hpush : (s.fifo.push e).entries = s.fifo.entries + 1 := entries_push e (Nat.lt_of_lt_of_le hlt (by decide))
    exact ⟨hpush.trans_le hlt, hbusy, ringWf_writeSlot _ _ (slotOf_lt _) _ hring⟩
  written d w v hs h := by
    obtain ⟨-, -, hfifo⟩ := context_eq ((keeps_dispatch d w v _).next h)
    unfold FifoOk
    rwa [hfifo]
  returned {s} d w hs := by
    obtain ⟨-, -, hfifo, -⟩ := sameContext_readValue d w s
    unfold FifoOk
    rwa [hfifo]
  drained {s t} hpos hs h := by
    obtain ⟨hcap, -, hring⟩ := hs
    have hpop : ({ s.fifo with readIdx := s.fifo.readIdx + 1 } : Fifo).entries + 1 = s.fifo.entries :=
      entries_pop hpos
    have hfifo := (drain_next h).2
    refine ⟨?_, by rw [hfifo], by rw [hfifo]; exact hring⟩
    have hsame : t.fifo.entries = ({ s.fifo with readIdx := s.fifo.readIdx + 1 } : Fifo).entries := by
      rw [hfifo]
      rfl
    rw [hsame]
    exact (Nat.le_of_succ_le hpop.le).trans hcap
  signals _ hs := hs
  reset _ _ := ⟨(by decide : Fifo.reset.entries ≤ Config.fifoSize - Config.fifoHeadroom), rfl, rfl⟩

end Sys2Proof.Machine

namespace Sys2Proof
open Sys2Proof.Machine

/-- Settles O57: a write is queued only while there is room, and a drain takes one entry away. -/
theorem fifoKept : Obligations.FifoKept := by
  unfold Obligations.FifoKept
  exact fun s t hs hstep => fifoOk_keptByMoves.step hs hstep

/-- Settles O60: no move writes the session, and the one move that faults is that of bytes that are no record. -/
theorem contextKept : Obligations.ContextKept := by
  unfold Obligations.ContextKept
  refine ⟨fun s t hstep => (cfg_keptByMoves s.cfg).step rfl hstep, fun i s f => (access_exec i s).ne_fault f,
    fun s f hstep => ?_⟩
  have hmove := step_move s
  generalize step s = r at hmove hstep
  cases hmove with
  | access ha => exact absurd hstep (ha.ne_fault f)
  | drained h hpos => exact absurd hstep (drain_ne_fault _ f)
  | signals h i => nomatch hstep
  | reset h held => nomatch hstep
  | malformed e h => cases hstep; exact ⟨e, rfl, h⟩

end Sys2Proof
end

section
/-!
PROOFS. What drawing can do, step by step; VRAM stays canonical and inside the installed memory (spec/20_memory.md R80)
and the positions stay sign-extended 14-bit fields (spec/10_state.md R32, R51) through every step.
-/
namespace Sys2Proof.Machine

/-! ### Drawing as a sequence of small steps -/

/-- One small step of drawing. -/
inductive DrawStep : State → State → Prop
  | pixel (x y : Int) (v p : Option Word) (sup : Bool) (s : State) : DrawStep s (pixel x y v p sup s)
  /-- the working state changes -/
  | latch (e : Eng) (s : State) : DrawStep s { s with eng := e }
  /-- a position is written back to `CUR_X` (R248) -/
  | curX (a : Int) (s : State) : DrawStep s { s with regs := { s.regs with curX := storePos s.cfg a } }
  | curY (a : Int) (s : State) : DrawStep s { s with regs := { s.regs with curY := storePos s.cfg a } }
  | curX2 (a : Int) (s : State) : DrawStep s { s with regs := { s.regs with curX2 := storePos s.cfg a } }
  | curY2 (a : Int) (s : State) : DrawStep s { s with regs := { s.regs with curY2 := storePos s.cfg a } }
  /-- the error term is written back (R248) -/
  | errTerm (e : Word) (s : State) : DrawStep s { s with regs := { s.regs with errTerm := e } }
  /-- `GE_DONE` is raised (R405) -/
  | done (s : State) : DrawStep s (raiseIrq geDone s)

/-- One state comes from another by drawing. -/
def Draws : State → State → Prop := Relation.ReflTransGen DrawStep

theorem Draws.refl (s : State) : Draws s s := Relation.ReflTransGen.refl

theorem Draws.trans {s t u : State} (h : Draws s t) (h' : Draws t u) : Draws s u := Relation.ReflTransGen.trans h h'

theorem DrawStep.draws {s t : State} (h : DrawStep s t) : Draws s t := Relation.ReflTransGen.single h

theorem draws_latch (e : Eng) (s : State) : Draws s { s with eng := e } := (DrawStep.latch e s).draws

theorem draws_pixel (x y : Int) (v p : Option Word) (sup : Bool) (s : State) : Draws s (pixel x y v p sup s) :=
  (DrawStep.pixel x y v p sup s).draws

/-- What every small step keeps, drawing keeps. -/
theorem Draws.keeps {P : State → Prop} (hstep : ∀ {s t}, DrawStep s t → P s → P t) {s t : State} (h : Draws s t)
    (hs : P s) : P t := by
  induction h with
  | refl => exact hs
  | tail _ ht ih => exact hstep ht ih

theorem draws_opDone (s : State) : Draws s (opDone s) := (draws_latch _ s).trans (DrawStep.done _).draws

theorem draws_rectFinish (s : State) : Draws s (rectFinish s) := (DrawStep.curY _ s).draws.trans (draws_opDone _)

theorem draws_radialFinish (s : State) : Draws s (radialFinish s) :=
  (DrawStep.curX s.eng.cx s).draws.trans <| (DrawStep.curY s.eng.cy _).draws.trans (draws_opDone _)

theorem draws_lineFinish (s : State) : Draws s (lineFinish s) :=
  (DrawStep.curX s.eng.cx s).draws.trans <| (DrawStep.curY s.eng.cy _).draws.trans <|
    (DrawStep.errTerm (storeErr s.eng.err) _).draws.trans (draws_opDone _)

theorem draws_polylineFinish (s : State) : Draws s (polylineFinish s) :=
  (DrawStep.curX s.eng.plX1 s).draws.trans <| (DrawStep.curY s.eng.plY1 _).draws.trans (draws_opDone _)

theorem draws_polyFinish (s : State) : Draws s (polyFinish s) :=
  (DrawStep.curX (polyFloor s.eng.fx1) s).draws.trans <| (DrawStep.curY s.eng.cy _).draws.trans <|
    (DrawStep.curX2 (polyFloor s.eng.fx2) _).draws.trans <| (DrawStep.curY2 s.eng.cy _).draws.trans (draws_opDone _)

/-- A walk draws, if its visits, its steps and its end do. -/
theorem draws_runWalk {last : State → Bool} {visit advance finish : State → State} (hv : ∀ s, Draws s (visit s))
    (ha : ∀ s, Draws s (advance s)) (hf : ∀ s, Draws s (finish s)) (n : Nat) (s : State) :
    Draws s (runWalk last visit advance finish n s) := by
  have hcases := runWalk_cases last visit advance finish (Draws s) (fun t ht => ht.trans (hv t))
    (fun t ht _ => ht.trans (ha t)) n s (.refl s)
  rcases hcases with ⟨t, ht, -, hend⟩ | ht
  · rw [hend]
    exact ht.trans (hf t)
  · exact ht

theorem draws_polySpan (n : Nat) (x : Int) (s : State) : Draws s (polySpan n x s) := by
  induction n generalizing x s with
  | zero => exact .refl s
  | succ n ih => exact (draws_pixel _ _ _ _ _ s).trans (ih _ _)

theorem draws_polyLoop (n : Nat) (s : State) : Draws s (polyLoop n s) := by
  induction n generalizing s with
  | zero => exact .refl s
  | succ n ih => exact ((draws_polySpan _ _ s).trans (draws_latch _ _)).trans (ih _)

theorem draws_strokeWalk (d : BitVec 3) (n : Nat) (x y : Int) (s : State) : Draws s (strokeWalk d n x y s) := by
  induction n generalizing x y s with
  | zero =>
    exact (draws_pixel x y none none false s).trans <| (DrawStep.curX x _).draws.trans <|
      (DrawStep.curY y _).draws.trans (DrawStep.done _).draws
  | succ n ih => exact (draws_pixel _ _ _ _ _ s).trans (ih _ _ _)

/-- Running an operation of any class draws. -/
theorem draws_runOp (s : State) : Draws s (runOp s) := by
  have hpixel {x y : State → Int} {v p : State → Option Word} {sup : State → Bool} (u : State) :
      Draws u (pixel (x u) (y u) (v u) (p u) (sup u) u) := draws_pixel _ _ _ _ _ u
  have hlatch {e : State → Eng} (u : State) : Draws u { u with eng := e u } := draws_latch _ u
  unfold runOp
  split
  · exact draws_opDone s
  · split
    · exact draws_runWalk hpixel hlatch draws_radialFinish _ s
    · exact draws_runWalk hpixel hlatch draws_lineFinish _ s
  · exact draws_runWalk hpixel hlatch draws_rectFinish _ s
  · exact (draws_polyLoop _ s).trans (draws_polyFinish _)
  · exact draws_runWalk hpixel hlatch draws_opDone _ s
  · exact draws_runWalk hpixel hlatch draws_polylineFinish _ s
  · exact draws_runWalk hpixel hlatch draws_opDone _ s
  · exact draws_runWalk hpixel hlatch draws_opDone _ s

theorem draws_beginOp (s : State) : Draws s (beginOp s) := by
  have hinit : Draws s (activate (initOp s)) := by
    rw [initOp_eq]
    exact draws_latch _ s
  unfold beginOp
  simp only
  split
  · exact hinit
  · exact hinit.trans (draws_runOp _)

theorem draws_startOp {s t : State} (h : startOp s = .next t) : Draws s t := by
  have hlatch : Draws s (latchCmd s) := draws_latch _ s
  unfold startOp at h
  simp only at h
  split at h
  · split at h
    · nomatch h
    · cases h
      exact hlatch.trans (draws_beginOp _)
  · cases h
    exact hlatch

theorem draws_stroke {b : Byte} {s t : State} (h : stroke b s = .next t) : Draws s t := by
  unfold stroke at h
  split at h
  · unfold ssv at h
    split at h
    · nomatch h
    · cases h
      exact (draws_latch _ s).trans (draws_strokeWalk _ _ _ _ _)
  · cases h
    exact .refl s

theorem draws_feed {u : Word} {s t : State} (h : feed u s = .next t) : Draws s t := by
  unfold feed at h
  split at h
  · nomatch h
  · cases h
    refine Draws.trans ?_ (draws_runOp _)
    unfold appendUnit
    simp only
    split <;> exact draws_latch _ s

theorem draws_pixByte {b : Byte} {s t : State} (h : pixByte b s = .next t) : Draws (stageByte b s) t := by
  unfold pixByte at h
  simp only at h
  split at h
  · split at h
    · exact (draws_latch _ _).trans (draws_feed h)
    · cases h
      exact draws_latch _ _
  · cases h
    exact draws_latch _ _

theorem draws_readPixByte (lane : Nat) (s : State) : Draws s (readPixByte lane s).2 := by
  have hfill : Draws s (readBackFill s) := by
    unfold readBackFill
    split
    · exact draws_latch _ s
    · exact .refl s
  unfold readPixByte
  split
  · simp only [readBackByte]
    split
    · exact hfill.trans <| (draws_latch _ _).trans <| (draws_latch _ _).trans (draws_rectFinish _)
    · exact hfill.trans (draws_latch _ _)
  · exact .refl s

theorem draws_readPix (lane k n : Nat) (s : State) : Draws s (readPix lane k n s).2 := by
  induction n generalizing k s with
  | zero => exact .refl s
  | succ n ih => exact (draws_readPixByte (lane + k) s).trans (ih (k + 1) _)

/-! ### A dispatched write and a read -/

/-- A result goes on only from a next state. -/
theorem thenNext_eq_next {r : Result} {f : State → Result} {t : State} (h : thenNext r f = .next t) :
    ∃ u, r = .next u ∧ f u = .next t := by
  cases r with
  | next u => exact ⟨u, rfl, h⟩
  | fault e => nomatch h
  | refused e => nomatch h

theorem writePix_keeps {P : State → Prop} (hpix : ∀ {b s t}, P s → pixByte b s = .next t → P t) (bs : List Byte)
    {s t : State} (hs : P s) (h : writePix bs s = .next t) : P t := by
  induction bs generalizing s with
  | nil => cases h; exact hs
  | cons b bs ih =>
    obtain ⟨u, hu, ht⟩ := thenNext_eq_next h
    exact ih (hpix hs hu) ht

/-- What writes keep: drawing, the registers that only store, and the three registers that writes which may draw store
into. -/
structure KeptByWrites (P : State → Prop) : Prop where
  draws : ∀ {s t}, Draws s t → P s → P t
  stores : ∀ {s t} r part v, r ≠ .cmd → r ≠ .shortStroke → P s → writeReg r part v s = .next t → P t
  packed : ∀ {s} k v, P s → P (writePacked k v s)
  latches : ∀ {s : State} c v p, P s → P { s with regs := { s.regs with cmd := c, shortStroke := v, pixTrans := p } }
  pointer : ∀ {s}, P s → P (mapRegs Regs.bumpPtr s)

theorem KeptByWrites.stroke {P : State → Prop} (k : KeptByWrites P) {part : RegPart} {b : Byte} {s t : State}
    (hs : P s) (h : writeStrokeByte part b s = .next t) : P t :=
  k.draws (draws_stroke h) (k.latches _ _ _ hs)

theorem KeptByWrites.command {P : State → Prop} (k : KeptByWrites P) {part : RegPart} {v : Word} {s t : State}
    (hs : P s) (h : writeCmd part v s = .next t) : P t := by
  have hlow (v : Word) {u : State} (hu : P u) : P (writeCmdLow v u) :=
    k.latches _ _ _ (k.draws (draws_latch { u.eng with pixCount := 0, dataAvailable := false } u) hu)
  have hhigh (v : Word) {u : State} (hu : P u) : P (writeCmdHigh v u) :=
    k.latches _ _ _ (k.draws (draws_latch { u.eng with
      phase16 := if byteDoubled u.cfg then false else u.eng.phase16 } u) hu)
  cases part with
  | lo => cases h; exact hlow v hs
  | hi => exact k.draws (draws_startOp h) (hhigh v hs)
  | word => exact k.draws (draws_startOp h) (hhigh _ (hlow v hs))

theorem KeptByWrites.dispatch {P : State → Prop} (k : KeptByWrites P) {d : Target} {w : Width} {v : Word}
    {s t : State} (hs : P s) (h : dispatch d w v s = .next t) : P t := by
  cases d with
  | reg r part =>
    by_cases hcmd : r = .cmd
    · subst hcmd
      exact k.command hs h
    · by_cases hstroke : r = .shortStroke
      · subst hstroke
        cases part with
        | lo => exact k.stroke hs h
        | hi => exact k.stroke hs h
        | word =>
          obtain ⟨u, hu, ht⟩ := thenNext_eq_next h
          exact k.stroke (k.stroke hs hu) ht
      · exact k.stores r part v hcmd hstroke hs h
  | packed q => cases h; exact k.packed q v hs
  | pix lane => exact writePix_keeps (fun hu hb => k.draws (draws_pixByte hb) (k.latches _ _ _ hu)) _ hs h
  | unmapped => cases h; exact hs
  | streams => nomatch h

theorem KeptByWrites.read {P : State → Prop} (k : KeptByWrites P) (d : Target) (w : Width) {s : State} (hs : P s) :
    P (readValue d w s).2 := by
  cases d with
  | reg r part =>
    cases r with
    | multifunc => 
      cases part with
      | lo => exact hs
      | hi => exact k.pointer hs
      | word => exact k.pointer hs
    | _ => exact hs
  | packed q => exact hs
  | pix lane => exact k.draws (draws_readPix lane 0 _ s) hs
  | unmapped => exact hs
  | streams => exact hs

/-- A machine whose every write, read and drain step keeps a property keeps it through every step. -/
theorem KeptByWrites.byMoves {P : State → Prop} (k : KeptByWrites P) (hhost : ∀ {s} h, P s → P { s with host := h })
    (hfifo : ∀ {s} f, P s → P { s with fifo := f }) (hirq : ∀ {s}, P s → P (raiseIrq fifoEmpty s))
    (hsignals : ∀ {s} i, P s → P { s with inputs := i }) (hreset : ∀ {s} held, P s → P (deviceReset held s)) :
    KeptByMoves P where
  host := hhost
  queued e _ hs := hfifo _ hs
  written _ _ _ hs h := k.dispatch hs h
  returned d w hs := k.read d w hs
  drained _ hs h := by
    refine drain_keeps (P := P) (hfifo _) (fun _ _ _ hu hd => k.dispatch hu hd) (fun {u} hu => ?_) hs h
    unfold endDrain
    simp only
    split
    · exact hirq (hfifo _ hu)
    · exact hfifo _ hu
  signals := hsignals
  reset := hreset

/-- A register that only stores changes neither the session nor VRAM nor the working state nor the `CMD` register. -/
theorem writeReg_stores (r : PortReg) (part : RegPart) (v : Word) (s : State) (hcmd : r ≠ .cmd)
    (hstroke : r ≠ .shortStroke) :
    ∃ t, writeReg r part v s = .next t ∧ t.cfg = s.cfg ∧ t.vram = s.vram ∧ t.eng = s.eng ∧
      t.regs.cmd = s.regs.cmd := by
  cases r with
  | cmd => exact absurd rfl hcmd
  | shortStroke => exact absurd rfl hstroke
  | subsys => cases part <;> exact ⟨_, rfl, rfl, rfl, rfl, rfl⟩
  | multifunc => cases part <;> exact ⟨_, rfl, rfl, rfl, rfl, rfl⟩
  | _ => exact ⟨_, rfl, rfl, rfl, rfl, rfl⟩

theorem writePacked_stores (k : PackedReg) (v : Word) (s : State) :
    (writePacked k v s).cfg = s.cfg ∧ (writePacked k v s).vram = s.vram ∧ (writePacked k v s).eng = s.eng ∧
      (writePacked k v s).regs.cmd = s.regs.cmd := by
  cases k <;> exact ⟨rfl, rfl, rfl, rfl⟩

/-! ### VRAM (R80) -/

theorem memOk_of_eq {s t : State} (hcfg : t.cfg = s.cfg) (hvram : t.vram = s.vram) (hs : MemOk s) : MemOk t := by
  unfold MemOk
  rwa [hcfg, hvram]

theorem memOk_keptByWrites : KeptByWrites MemOk where
  draws h hs := h.keeps (P := MemOk) (fun hd hu => by
    cases hd with
    | pixel x y v p sup => exact pixel_memory _ x y v p sup hu
    | _ => exact hu) hs
  stores {s t} r part v hcmd hstroke hs h := by
    obtain ⟨u, hu, hcfg, hvram, -, -⟩ := writeReg_stores r part v s hcmd hstroke
    obtain rfl : u = t := by simpa [hu] using h
    exact memOk_of_eq hcfg hvram hs
  packed k v hs := by
    obtain ⟨hcfg, hvram, -, -⟩ := writePacked_stores k v _
    exact memOk_of_eq hcfg hvram hs
  latches _ _ _ hs := hs
  pointer hs := hs

/-! ### Positions (R32) and status bits (R51) -/

/-- A sign-extended 14-bit field repeats its bit 13 upward. -/
theorem isCoord_iff (r : Word) : isCoord r ↔ ∀ i, 14 ≤ i → i < 32 → r.getLsbD i = r.getLsbD 13 := by
  have hbit (i : Nat) (hi : i < 32) :
      ((r.extractLsb' 0 14).signExtend 32).getLsbD i = if i < 14 then r.getLsbD i else r.getLsbD 13 := by
    rw [BitVec.getLsbD_signExtend, BitVec.msb_eq_getLsbD_last]
    by_cases hlow : i < 14 <;> simp [hi, hlow]
  constructor
  · intro h i hlo hhi
    have he := congrArg (·.getLsbD i) (show r = _ from h)
    simpa [hbit i hhi, Nat.not_lt.mpr hlo] using he
  · intro h
    apply BitVec.eq_of_getLsbD_eq
    intro i hi
    rw [hbit i hi]
    split
    · rfl
    next hlow => exact h i (Nat.le_of_not_lt hlow) hi

theorem isCoord_signExtend (f : BitVec 14) : isCoord (f.signExtend 32) := by
  rw [isCoord_iff]
  intro i hlo hhi
  rw [BitVec.getLsbD_signExtend, BitVec.getLsbD_signExtend, BitVec.msb_eq_getLsbD_last]
  simp [hhi, Nat.not_lt.mpr hlo]

/-- Every part of a write leaves a position a sign-extended field (R151). -/
theorem isCoord_writeCoord (part : RegPart) (v : Word) {r : Word} (h : isCoord r) : isCoord (writeCoord part v r) := by
  cases part with
  | lo =>
    rw [isCoord_iff] at *
    intro i hlo hhi
    have hkeep (j : Nat) (hj : 8 ≤ j) (hj' : j < 32) : (setByteAt r 0 (v.setWidth 8)).getLsbD j = r.getLsbD j := by
      rw [setByteAt_zero, BitVec.getLsbD_append]
      simp only [Nat.not_lt.mpr hj, if_false, BitVec.getLsbD_extractLsb', show j - 8 < 24 by omega,
        show 8 + (j - 8) = j by omega, decide_true, Bool.true_and]
    rw [writeCoord, hkeep i (by omega) hhi, hkeep 13 (by decide) (by decide)]
    exact h i hlo hhi
  | hi => exact isCoord_signExtend _
  | word => exact isCoord_signExtend _

theorem reduce_lt (cfg : Config) (x : Int) : reduce cfg x < 4096 := by
  have hmod : 0 < (coordModulus cfg.coordMod : Int) ∧ coordModulus cfg.coordMod ≤ 4096 := by
    cases cfg.coordMod <;> decide
  obtain ⟨hpos, hle⟩ := hmod
  have hlt := Int.emod_lt_of_pos x hpos
  have hge := Int.emod_nonneg x hpos.ne'
  unfold reduce
  omega

/-- A stored position is a coordinate, below the modulus (R248). -/
theorem isCoord_storePos (cfg : Config) (x : Int) : isCoord (storePos cfg x) := by
  have hlt := reduce_lt cfg x
  have hzero (i : Nat) (hi : 13 ≤ i) : (storePos cfg x).getLsbD i = false := by
    have hpow : 2 ^ 13 ≤ 2 ^ i := Nat.pow_le_pow_right (by decide) hi
    rw [storePos, BitVec.getLsbD_ofNat, Nat.testBit_lt_two_pow (by omega), Bool.and_false]
  rw [isCoord_iff]
  intro i hlo _
  rw [hzero i (by omega), hzero 13 le_rfl]

/-- The registers keep their form: positions sign-extended, the unused status bits 0. -/
def RegsOk (r : Regs) : Prop :=
  (isCoord r.curX ∧ isCoord r.curY ∧ isCoord r.curX2 ∧ isCoord r.curY2 ∧
    isCoord r.destxDiastp ∧ isCoord r.destyAxstp ∧ isCoord r.destx2 ∧ isCoord r.desty2) ∧
    r.subsysStat.getLsbD 0 = false ∧ r.subsysStat.getLsbD 2 = false

theorem regsOk_iff (s : State) : RegsOk s.regs ↔ CoordsOk s ∧ StatusOk s := Iff.rfl

/-- Raising `GE_DONE` or `FIFO_EMPTY` sets no other status bit (R405). -/
theorem statusBits_raised (x : BitVec 4) (b : Nat) (hb : b = geDone ∨ b = fifoEmpty)
    (h : x.getLsbD 0 = false ∧ x.getLsbD 2 = false) :
    (x ||| (1#4 <<< b)).getLsbD 0 = false ∧ (x ||| (1#4 <<< b)).getLsbD 2 = false := by
  revert x
  rcases hb with rfl | rfl <;> decide

/-- Clearing status bits sets none (R166). -/
theorem statusBits_cleared (x y : BitVec 4) (h : x.getLsbD 0 = false ∧ x.getLsbD 2 = false) :
    (x &&& ~~~y).getLsbD 0 = false ∧ (x &&& ~~~y).getLsbD 2 = false := by
  obtain ⟨h0, h2⟩ := h
  rw [BitVec.getLsbD_and, BitVec.getLsbD_and, h0, h2, Bool.false_and, Bool.false_and]
  exact ⟨rfl, rfl⟩

theorem regsOk_drawStep {s t : State} (h : DrawStep s t) (hs : RegsOk s.regs) : RegsOk t.regs := by
  obtain ⟨⟨h1, h2, h3, h4, h5, h6, h7, h8⟩, hstatus⟩ := hs
  cases h with
  | pixel x y v p sup => exact ⟨⟨h1, h2, h3, h4, h5, h6, h7, h8⟩, hstatus⟩
  | latch e => exact ⟨⟨h1, h2, h3, h4, h5, h6, h7, h8⟩, hstatus⟩
  | curX a => exact ⟨⟨isCoord_storePos _ a, h2, h3, h4, h5, h6, h7, h8⟩, hstatus⟩
  | curY a => exact ⟨⟨h1, isCoord_storePos _ a, h3, h4, h5, h6, h7, h8⟩, hstatus⟩
  | curX2 a => exact ⟨⟨h1, h2, isCoord_storePos _ a, h4, h5, h6, h7, h8⟩, hstatus⟩
  | curY2 a => exact ⟨⟨h1, h2, h3, isCoord_storePos _ a, h5, h6, h7, h8⟩, hstatus⟩
  | errTerm e => exact ⟨⟨h1, h2, h3, h4, h5, h6, h7, h8⟩, hstatus⟩
  | done => exact ⟨⟨h1, h2, h3, h4, h5, h6, h7, h8⟩, statusBits_raised _ _ (.inl rfl) hstatus⟩

theorem regsOk_writeReg {r : PortReg} {part : RegPart} {v : Word} {s t : State} (hcmd : r ≠ .cmd)
    (hstroke : r ≠ .shortStroke) (hs : RegsOk s.regs) (h : writeReg r part v s = .next t) : RegsOk t.regs := by
  have hs' := hs
  obtain ⟨⟨h1, h2, h3, h4, h5, h6, h7, h8⟩, hstatus⟩ := hs'
  cases r with
  | cmd => exact absurd rfl hcmd
  | shortStroke => exact absurd rfl hstroke
  | curX => cases h; exact ⟨⟨isCoord_writeCoord part v h1, h2, h3, h4, h5, h6, h7, h8⟩, hstatus⟩
  | curY => cases h; exact ⟨⟨h1, isCoord_writeCoord part v h2, h3, h4, h5, h6, h7, h8⟩, hstatus⟩
  | curX2 => cases h; exact ⟨⟨h1, h2, isCoord_writeCoord part v h3, h4, h5, h6, h7, h8⟩, hstatus⟩
  | curY2 => cases h; exact ⟨⟨h1, h2, h3, isCoord_writeCoord part v h4, h5, h6, h7, h8⟩, hstatus⟩
  | destxDiastp => cases h; exact ⟨⟨h1, h2, h3, h4, isCoord_writeCoord part v h5, h6, h7, h8⟩, hstatus⟩
  | destyAxstp => cases h; exact ⟨⟨h1, h2, h3, h4, h5, isCoord_writeCoord part v h6, h7, h8⟩, hstatus⟩
  | destx2 => cases h; exact ⟨⟨h1, h2, h3, h4, h5, h6, isCoord_writeCoord part v h7, h8⟩, hstatus⟩
  | desty2 => cases h; exact ⟨⟨h1, h2, h3, h4, h5, h6, h7, isCoord_writeCoord part v h8⟩, hstatus⟩
  | subsys =>
    cases h
    cases part with
    | lo => exact ⟨⟨h1, h2, h3, h4, h5, h6, h7, h8⟩, statusBits_cleared _ _ hstatus⟩
    | hi => exact hs
    | word => exact ⟨⟨h1, h2, h3, h4, h5, h6, h7, h8⟩, statusBits_cleared _ _ hstatus⟩
  | multifunc => cases h; cases part <;> exact hs
  | _ => cases h; exact hs

theorem regsOk_keptByWrites : KeptByWrites (fun s => RegsOk s.regs) where
  draws h hs := h.keeps (P := fun s => RegsOk s.regs) regsOk_drawStep hs
  stores _ _ _ hcmd hstroke hs h := regsOk_writeReg hcmd hstroke hs h
  packed k _ hs := by cases k <;> exact hs
  latches _ _ _ hs := hs
  pointer hs := hs

theorem regsOk_reset : RegsOk Regs.reset := by
  unfold RegsOk isCoord
  decide

end Sys2Proof.Machine

namespace Sys2Proof
open Sys2Proof.Machine

/-- Settles O56: VRAM is written by pixels alone, and a pixel writes inside VRAM and keeps its form. -/
theorem memoryKept : Obligations.MemoryKept := by
  unfold Obligations.MemoryKept
  intro s t hs hstep
  exact (memOk_keptByWrites.byMoves (fun _ hs => hs) (fun _ hs => hs) (fun hs => hs) (fun _ hs => hs)
    (fun _ hs => hs)).step hs hstep

/-- Settles O58: a position register takes a sign-extended field or a coordinate, and the block raises bits 1 and 3
alone. -/
theorem registersKept : Obligations.RegistersKept := by
  unfold Obligations.RegistersKept
  intro s t hcoords hstatus hstep
  refine (regsOk_iff t).mp ((regsOk_keptByWrites.byMoves (fun _ hs => hs) (fun _ hs => hs) (fun hs => ?irq)
    (fun _ hs => hs) (fun _ _ => regsOk_reset)).step ((regsOk_iff s).mpr ⟨hcoords, hstatus⟩) hstep)
  case irq =>
    obtain ⟨hpositions, hbits⟩ := hs
    exact ⟨hpositions, statusBits_raised _ _ (.inr rfl) hbits⟩

end Sys2Proof
end

section
/-!
PROOFS. Every operation without CPU data runs to its end, and one with CPU data stays in form while it waits
(spec/40_bus_access.md R154).
-/
namespace Sys2Proof.Machine

/-! ### Walks that end -/

/-- A walk that never lacks data and comes nearer its last pixel with every step finishes. -/
theorem runWalk_finishes {last : State → Bool} {visit advance finish : State → State} (P : State → Prop)
    (μ : State → Nat) (hdata : ∀ s, P s → s.hasData = true) (hv : ∀ s, P s → P (visit s) ∧ μ (visit s) = μ s)
    (ha : ∀ s, P s → last s = false → P (advance s) ∧ μ (advance s) < μ s) {n : Nat} {s : State} (hs : P s)
    (hn : μ s < n) : ∃ t, P t ∧ runWalk last visit advance finish n s = finish t := by
  induction n generalizing s with
  | zero => exact absurd hn (Nat.not_lt_zero _)
  | succ n ih =>
    obtain ⟨hvisit, hsame⟩ := hv s hs
    rw [runWalk_step _ _ _ _ _ _ (hdata s hs)]
    cases hlast : last (visit s) with
    | true => exact ⟨visit s, hvisit, rfl⟩
    | false =>
      obtain ⟨hnext, hless⟩ := ha _ hvisit hlast
      exact ih hnext (by omega)

/-- No CPU data are taken, so that the walk always has data (R249). -/
def NoCpu (s : State) : Prop := takesCpu s.eng.cmd = false

/-- A line without CPU data, Bresenham or radial, visits all its pixels. -/
theorem line_finishes {advance finish : State → State} (hcmd : ∀ s, (advance s).eng.cmd = s.eng.cmd)
    (hcount : ∀ s, (advance s).eng.sy = s.eng.sy - 1) {s : State} (h : NoCpu s) (hsy : 0 ≤ s.eng.sy) :
    ∃ t, runWalk lineLast lineVisit advance finish (s.eng.sy.toNat + 1) s = finish t := by
  have hstep (u : State) (hu : NoCpu u ∧ 0 ≤ u.eng.sy) (hlast : lineLast u = false) :
      (NoCpu (advance u) ∧ 0 ≤ (advance u).eng.sy) ∧ (advance u).eng.sy.toNat < u.eng.sy.toNat := by
    obtain ⟨hcpu, hpos⟩ := hu
    have hmore : u.eng.sy ≠ 0 := of_decide_eq_false hlast
    refine ⟨⟨by rw [NoCpu, hcmd]; exact hcpu, ?_⟩, ?_⟩ <;> rw [hcount] <;> omega
  obtain ⟨t, -, ht⟩ := runWalk_finishes (last := lineLast) (visit := lineVisit) (advance := advance)
    (finish := finish) (fun u => NoCpu u ∧ 0 ≤ u.eng.sy) (fun u => u.eng.sy.toNat)
    (fun u hu => hasData_of_not_takesCpu u hu.1) (fun u hu => ⟨hu, rfl⟩) hstep ⟨h, hsy⟩ (Nat.lt_succ_self _)
  exact ⟨t, ht⟩

/-- A rectangle's step comes nearer its last pixel. -/
theorem walkLeft_rectStep {e : Eng} (h : 0 < e.sx ∨ 0 < e.sy) : e.rectStep.walkLeft < e.walkLeft := by
  unfold Eng.rectStep
  split
  next hx =>
    simp only [Eng.walkLeft]
    omega
  next hx =>
    obtain ⟨k, hk⟩ : ∃ k : Nat, e.sy = k + 1 := ⟨(e.sy - 1).toNat, by omega⟩
    have hnext : (e.sy - 1).toNat = k := by omega
    have hnow : e.sy.toNat = k + 1 := by omega
    have hwidth : e.discardData.w = e.w := rfl
    simp only [Eng.walkLeft, hnext, hnow, hwidth, Nat.add_mul]
    omega

/-- A rectangle or a blit without CPU data visits all its pixels. -/
theorem rect_finishes {visit advance finish : State → State}
    (hvisit : ∀ s, takesCpu (visit s).eng.cmd = takesCpu s.eng.cmd ∧ (visit s).eng.walkLeft = s.eng.walkLeft)
    (hstep : ∀ s, (advance s).eng.cmd = s.eng.cmd ∧ (advance s).eng.walkLeft = s.eng.rectStep.walkLeft)
    {s : State} (h : NoCpu s) : ∃ t, runWalk rectLast visit advance finish s.eng.walkLeft s = finish t := by
  have hpos (e : Eng) : 0 < e.walkLeft := Nat.succ_pos _
  have hnear (u : State) (hu : NoCpu u) (hlast : rectLast u = false) :
      NoCpu (advance u) ∧ (advance u).eng.walkLeft - 1 < u.eng.walkLeft - 1 := by
    obtain ⟨hcmd, hleft⟩ := hstep u
    have hmore : 0 < u.eng.sx ∨ 0 < u.eng.sy := by
      by_contra hend
      have hboth : rectLast u = true := (rectLast_iff u).mpr (not_or.mp hend)
      rw [hboth] at hlast
      nomatch hlast
    have hless := walkLeft_rectStep hmore
    have hrest := hpos u.eng.rectStep
    refine ⟨by rw [NoCpu, hcmd]; exact hu, ?_⟩
    rw [hleft]
    omega
  obtain ⟨t, -, ht⟩ := runWalk_finishes (last := rectLast) (visit := visit) (advance := advance) (finish := finish)
    NoCpu (fun u => u.eng.walkLeft - 1) (fun u hu => hasData_of_not_takesCpu u hu)
    (fun u hu => ⟨(hvisit u).1.trans hu, by rw [(hvisit u).2]⟩) hnear h
    (n := s.eng.walkLeft) (Nat.sub_lt (hpos _) Nat.one_pos)
  exact ⟨t, ht⟩

/-- A two-point line visits all its pixels, since it stands at its end after the longer difference's steps (R265). -/
theorem polyline_finishes {s : State} (h : NoCpu s) :
    ∃ t, polylineRun (polylineBegun s) = polylineFinish t := by
  let x0 : Int := coord s.cfg s.regs.curX
  let y0 : Int := coord s.cfg s.regs.curY
  let x1 : Int := coord s.cfg s.regs.destxDiastp
  let y1 : Int := coord s.cfg s.regs.destyAxstp
  have hends := endsAfter_max (x1 - x0).natAbs (y1 - y0).natAbs x0 y0 (direction_ne_zero x0 x1)
    (direction_ne_zero y0 y1)
  rw [EndsAfter, add_natAbs_mul_direction, add_natAbs_mul_direction] at hends
  have hfuel : max (x1 - x0).natAbs (y1 - y0).natAbs ≤
      ((polylineBegun s).eng.plDx + (polylineBegun s).eng.plDy).toNat := by
    show _ ≤ (((x1 - x0).natAbs : Int) + (y1 - y0).natAbs).toNat
    omega
  exact ⟨_, polylineRun_eq hfuel h hends⟩

/-! ### The start of an operation (R154) -/

theorem rectStep_keeps (e : Eng) : e.rectStep.cmd = e.cmd ∧ e.rectStep.cls = e.cls := by
  unfold Eng.rectStep
  split <;> exact ⟨rfl, rfl⟩

/-- A blit's step is a rectangle's but for the source position (R310). -/
theorem blitStep_eq (e : Eng) :
    e.blitStep = { e.rectStep with srcx := e.blitStep.srcx, srcy := e.blitStep.srcy } := by
  unfold Eng.blitStep Eng.rectStep
  split <;> rfl

theorem initOp_keeps (s : State) : (initOp s).eng.cmd = s.eng.cmd ∧ (initOp s).eng.cls = s.eng.cls := by
  unfold initOp
  split
  case h_2 => split <;> exact ⟨rfl, rfl⟩
  case h_3 => split <;> exact ⟨rfl, rfl⟩
  all_goals exact ⟨rfl, rfl⟩

theorem rectRun_inactive {s : State} (h : NoCpu s) : (rectRun s).eng.active = false := by
  obtain ⟨t, ht⟩ := rect_finishes (visit := rectVisit) (advance := rectAdvance) (finish := rectFinish)
    (fun _ => ⟨rfl, rfl⟩) (fun u => ⟨(rectStep_keeps u.eng).1, rfl⟩) h
  rw [rectRun, ht]
  rfl

theorem blitAdvance_keeps (u : State) : (blitAdvance u).eng.cmd = u.eng.cmd ∧
    (blitAdvance u).eng.walkLeft = u.eng.rectStep.walkLeft := by
  rw [blitAdvance_eng, blitStep_eq]
  exact ⟨(rectStep_keeps u.eng).1, rfl⟩

theorem ropRun_inactive {s : State} (h : NoCpu s) : (ropRun s).eng.active = false := by
  obtain ⟨t, ht⟩ := rect_finishes (visit := ropVisit) (advance := blitAdvance) (finish := opDone)
    (fun _ => ⟨rfl, rfl⟩) blitAdvance_keeps h
  rw [ropRun, ht]
  rfl

theorem blitRun_inactive {s : State} (h : NoCpu s) : (blitRun s).eng.active = false := by
  obtain ⟨t, ht⟩ := rect_finishes (visit := blitVisit) (advance := blitAdvance) (finish := opDone)
    (fun _ => ⟨rfl, rfl⟩) blitAdvance_keeps h
  rw [blitRun, ht]
  rfl

theorem patRun_inactive {s : State} (h : NoCpu s) : (patRun s).eng.active = false := by
  obtain ⟨t, ht⟩ := rect_finishes (visit := patVisit) (advance := rectAdvance) (finish := opDone)
    (fun _ => ⟨rfl, rfl⟩) (fun u => ⟨(rectStep_keeps u.eng).1, rfl⟩) h
  rw [patRun, ht]
  rfl

theorem radialRun_inactive {s : State} (h : NoCpu s) (hsy : 0 ≤ s.eng.sy) : (radialRun s).eng.active = false := by
  obtain ⟨t, ht⟩ := line_finishes (advance := radialAdvance) (finish := radialFinish) (fun _ => rfl) (fun _ => rfl)
    h hsy
  rw [radialRun, ht]
  rfl

theorem lineRun_inactive {s : State} (h : NoCpu s) (hsy : 0 ≤ s.eng.sy) : (lineRun s).eng.active = false := by
  obtain ⟨t, ht⟩ := line_finishes (advance := lineAdvance) (finish := lineFinish) (fun _ => rfl) (fun _ => rfl) h hsy
  rw [lineRun, ht]
  rfl

/-- An operation that takes no CPU data has ended when its run is over (R154). -/
theorem beginOp_inactive {s : State} (h : takesCpu s.eng.cmd = false) : (beginOp s).eng.active = false := by
  obtain ⟨hcmd, -⟩ := initOp_keeps s
  have hcpu : takesCpu (initOp s).eng.cmd = false := by rw [hcmd, h]
  have hrun : NoCpu (activate (initOp s)) := hcpu
  rw [beginOp_of_not_takesCpu hcpu]
  have hclass : (activate (initOp s)).eng.cls = s.eng.cls := (initOp_keeps s).2
  unfold runOp
  rw [hclass]
  split
  case h_1 => rfl
  case h_2 hline =>
    have hsy : 0 ≤ (activate (initOp s)).eng.sy := by
      unfold initOp
      rw [hline]
      simp only
      split <;> exact Int.natCast_nonneg _
    split
    · exact radialRun_inactive hrun hsy
    · exact lineRun_inactive hrun hsy
  case h_3 => exact rectRun_inactive hrun
  case h_4 => rfl
  case h_5 => exact ropRun_inactive hrun
  case h_6 hpoly =>
    have hinit : activate (initOp s) = polylineBegun s := by
      unfold initOp
      rw [hpoly]
      rfl
    obtain ⟨t, ht⟩ := polyline_finishes (s := s) h
    rw [hinit, ht]
    rfl
  case h_7 => exact blitRun_inactive hrun
  case h_8 => exact patRun_inactive hrun

/-! ### Operations that wait for the CPU -/

/-- An operation the CPU feeds or reads is in form. -/
def Suspended (s : State) : Prop :=
  takesCpu s.eng.cmd = true ∧ s.eng.cls = cmdClass s.eng.cmd ∧ cmdClass s.regs.cmd = cmdClass s.eng.cmd ∧ 0 ≤ s.eng.sy

theorem engineOk_of_suspended {s : State} (h : Suspended s) : EngineOk s := fun _ => h

theorem engineOk_of_inactive {s : State} (h : s.eng.active = false) : EngineOk s := fun hactive => by
  rw [h] at hactive
  nomatch hactive

/-- Only lines, rectangles and BitBlts take CPU data (R154). -/
theorem cmdClass_of_takesCpu {c : Half} (h : takesCpu c = true) : cmdClass c = 1 ∨ cmdClass c = 2 ∨ cmdClass c = 6 := by
  by_contra hno
  simp only [not_or] at hno
  obtain ⟨h1, h2, h6⟩ := hno
  rw [takesCpu_of_cmdClass h1 h2 h6] at h
  nomatch h

/-- The counts of an operation that begins are not negative. -/
theorem initOp_sy_nonneg {s : State} (h : s.eng.cls = 1 ∨ s.eng.cls = 2 ∨ s.eng.cls = 6) : 0 ≤ (initOp s).eng.sy := by
  unfold initOp
  rcases h with h | h | h <;> rw [h]
  · change 0 ≤ (if cmdRadial s.eng.cmd then radialInit s else lineInit s).eng.sy
    split <;> exact Int.natCast_nonneg _
  · change 0 ≤ (if isReadBack s.eng.cmd then readBackInit s else rectInit s).eng.sy
    split <;> exact Int.natCast_nonneg _
  · exact Int.natCast_nonneg _

theorem engineOk_beginOp {s : State} (hcls : s.eng.cls = cmdClass s.eng.cmd) (hcmd : s.regs.cmd = s.eng.cmd) :
    EngineOk (beginOp s) := by
  cases hcpu : takesCpu s.eng.cmd with
  | false => exact engineOk_of_inactive (beginOp_inactive hcpu)
  | true =>
    obtain ⟨hkeepCmd, hkeepCls⟩ := initOp_keeps s
    have hbegin : beginOp s = activate (initOp s) := if_pos (by rw [activate_eng, hkeepCmd, hcpu])
    have hregs : (initOp s).regs = s.regs := by rw [initOp_eq]
    rw [hbegin]
    refine engineOk_of_suspended ⟨?_, ?_, ?_, ?_⟩ <;> simp only [activate_eng, activate_regs, hkeepCmd, hkeepCls, hregs]
    · exact hcpu
    · exact hcls
    · rw [hcmd]
    · exact initOp_sy_nonneg (by rw [hcls]; exact cmdClass_of_takesCpu hcpu)

/-- A command leaves an operation active only where it waits for the CPU; the old one is dropped (R154). -/
theorem engineOk_startOp {s t : State} (h : startOp s = .next t) : EngineOk t := by
  unfold startOp at h
  simp only at h
  split at h
  · split at h
    · nomatch h
    · cases h
      exact engineOk_beginOp rfl rfl
  · cases h
    exact engineOk_of_inactive rfl

/-- The walk of a suspended operation ends, or stays in form. -/
theorem engineOk_runWalk {last : State → Bool} {visit advance finish : State → State}
    (hv : ∀ s, Suspended s → Suspended (visit s)) (ha : ∀ s, Suspended s → last s = false → Suspended (advance s))
    (hf : ∀ s, (finish s).eng.active = false) (n : Nat) {s : State} (hs : Suspended s) :
    EngineOk (runWalk last visit advance finish n s) := by
  rcases runWalk_cases last visit advance finish Suspended hv ha n s hs with ⟨t, -, -, ht⟩ | h
  · rw [ht]
    exact engineOk_of_inactive (hf t)
  · exact engineOk_of_suspended h

theorem suspended_rectStep {s : State} (hs : Suspended s) (h : rectLast s = false) : Suspended (rectAdvance s) := by
  obtain ⟨hcpu, hcls, hregs, hsy⟩ := hs
  obtain ⟨hcmd, hkeep⟩ := rectStep_keeps s.eng
  have hleft : 0 ≤ s.eng.rectStep.sy := by
    unfold Eng.rectStep
    split
    · exact hsy
    next hx =>
      have hmore : 0 < s.eng.sy := by
        by_contra hy
        rw [(rectLast_iff s).mpr ⟨hx, hy⟩] at h
        nomatch h
      show 0 ≤ s.eng.sy - 1
      omega
  refine ⟨?_, ?_, ?_, hleft⟩ <;> simp only [rectAdvance_eng, rectAdvance_regs, hcmd, hkeep]
  · exact hcpu
  · exact hcls
  · exact hregs

theorem suspended_blitStep {s : State} (hs : Suspended s) (h : rectLast s = false) : Suspended (blitAdvance s) := by
  have hrect := suspended_rectStep hs h
  unfold Suspended at *
  rw [blitAdvance_eng, blitStep_eq]
  exact hrect

theorem suspended_lineStep {s : State} {e : Eng} (hs : Suspended s) (h : lineLast s = false)
    (hcmd : e.cmd = s.eng.cmd) (hcls : e.cls = s.eng.cls) (hcount : e.sy = s.eng.sy - 1) :
    Suspended { s with eng := e } := by
  obtain ⟨hcpu, hclass, hregs, hsy⟩ := hs
  have hmore : s.eng.sy ≠ 0 := of_decide_eq_false h
  unfold Suspended
  simp only [hcmd, hcls, hcount]
  exact ⟨hcpu, hclass, hregs, by omega⟩

/-- Running a suspended operation as far as its data go ends it, or leaves it in form (R249). -/
theorem engineOk_runOp {s : State} (hs : Suspended s) : EngineOk (runOp s) := by
  obtain ⟨hcpu, hcls, -, -⟩ := id hs
  unfold runOp
  rcases cmdClass_of_takesCpu hcpu with h | h | h <;> rw [hcls, h]
  · change EngineOk (if cmdRadial s.eng.cmd then radialRun s else lineRun s)
    split
    · exact engineOk_runWalk (visit := lineVisit) (advance := radialAdvance) (finish := radialFinish) (fun _ hu => hu)
        (fun _ hu hl => suspended_lineStep hu hl rfl rfl rfl) (fun _ => rfl) _ hs
    · exact engineOk_runWalk (visit := lineVisit) (advance := lineAdvance) (finish := lineFinish) (fun _ hu => hu)
        (fun _ hu hl => suspended_lineStep hu hl rfl rfl rfl) (fun _ => rfl) _ hs
  · exact engineOk_runWalk (visit := rectVisit) (fun _ hu => hu) (fun _ => suspended_rectStep) (fun _ => rfl) _ hs
  · exact engineOk_runWalk (visit := blitVisit) (fun _ hu => hu) (fun _ => suspended_blitStep) (fun _ => rfl) _ hs

/-! ### Writes and reads -/

/-- A stroke draws only while the command class is NOP, and then no operation is active. -/
theorem engineOk_stroke {b : Byte} {s t : State} (hs : EngineOk s) (h : stroke b s = .next t) : EngineOk t := by
  have hwalk (d : BitVec 3) (n : Nat) (x y : Int) (u : State) :
      (strokeWalk d n x y u).eng.active = u.eng.active := by
    rw [strokeWalk_eq]
    have hvisit : ∀ (ps : List (Int × Int)) (u : State), (visitAll plain ps u).eng.active = u.eng.active := by
      intro ps
      induction ps with
      | nil => exact fun _ => rfl
      | cons p ps ih => exact fun u => ih (plain p u)
    exact hvisit _ u
  unfold stroke at h
  split at h
  next hnop =>
    have hinactive : s.eng.active = false := by
      by_contra hactive
      obtain ⟨hcpu, -, hregs, -⟩ := hs (by simpa using hactive)
      rw [hnop] at hregs
      rcases cmdClass_of_takesCpu hcpu with hc | hc | hc <;> rw [hc] at hregs <;> nomatch hregs
    unfold ssv at h
    split at h
    · nomatch h
    · cases h
      exact engineOk_of_inactive ((hwalk _ _ _ _ _).trans hinactive)
  · cases h
    exact hs

theorem engineOk_pixByte {b : Byte} {s t : State} (hs : EngineOk s) (h : pixByte b s = .next t) : EngineOk t := by
  unfold pixByte at h
  simp only at h
  split at h
  · split at h
    next hfed =>
      have hactive : s.eng.active = true := by
        simp only [Bool.and_eq_true] at hfed
        exact hfed.1.1
      have hsus : Suspended s := hs hactive
      unfold feed at h
      split at h
      · nomatch h
      · cases h
        refine engineOk_runOp ?_
        unfold appendUnit
        simp only
        split <;> exact hsus
    · cases h
      exact hs
  · cases h
    exact hs

/-- The bits of the `CMD` register above its low byte stay when the low byte is written. -/
theorem cmdClass_writeHalf_lo (v : Word) (r : Half) : cmdClass (writeHalf .lo v r) = cmdClass r := by
  rw [cmdClass, writeHalf, BitVec.extractLsb'_append_eq_of_le (by decide)]
  ext i hi
  simp only [cmdClass, BitVec.getElem_extractLsb', BitVec.getLsbD_extractLsb']
  grind

theorem engineOk_dispatch {d : Target} {w : Width} {v : Word} {s t : State} (hs : EngineOk s)
    (h : dispatch d w v s = .next t) : EngineOk t := by
  cases d with
  | reg r part =>
    by_cases hcmd : r = .cmd
    · subst hcmd
      cases part with
      | lo =>
        cases h
        intro hactive
        obtain ⟨hcpu, hcls, hregs, hsy⟩ := hs hactive
        exact ⟨hcpu, hcls, (cmdClass_writeHalf_lo v _).trans hregs, hsy⟩
      | hi => exact engineOk_startOp h
      | word => exact engineOk_startOp h
    · by_cases hstroke : r = .shortStroke
      · subst hstroke
        cases part with
        | lo => exact engineOk_stroke (by exact hs) h
        | hi => exact engineOk_stroke (by exact hs) h
        | word =>
          obtain ⟨u, hu, ht⟩ := thenNext_eq_next h
          have hfirst : EngineOk u := engineOk_stroke (by exact hs) hu
          exact engineOk_stroke (by exact hfirst) ht
      · obtain ⟨u, hu, -, -, heng, hregs⟩ := writeReg_stores r part v s hcmd hstroke
        obtain rfl : u = t := by
          have hsame := hu.symm.trans h
          cases hsame
          rfl
        unfold EngineOk
        rwa [heng, hregs]
  | packed k =>
    cases h
    obtain ⟨-, -, heng, hregs⟩ := writePacked_stores k v s
    unfold EngineOk
    rwa [heng, hregs]
  | pix lane => exact writePix_keeps engineOk_pixByte _ hs h
  | unmapped => cases h; exact hs
  | streams => nomatch h

theorem engineOk_readPixByte (lane : Nat) {s : State} (hs : EngineOk s) : EngineOk (readPixByte lane s).2 := by
  have hfill : EngineOk (readBackFill s) := by
    unfold readBackFill
    split
    · intro hactive
      have hold : s.eng.active = true := by
        revert hactive
        simp only [readBackFetch]
        split
        · exact id
        · unfold Eng.rectStep
          split <;> exact id
      simp only [readBackFetch]
      split
      · exact hs hold
      next hmore =>
        have hl : rectLast s = false := by simpa using hmore
        exact suspended_rectStep (s := { s with eng := { s.eng with rb := _ } }) (hs hold) hl
    · exact hs
  unfold readPixByte
  split
  · simp only [readBackByte]
    split
    · exact engineOk_of_inactive rfl
    · exact hfill
  · exact hs

theorem engineOk_readValue (d : Target) (w : Width) {s : State} (hs : EngineOk s) : EngineOk (readValue d w s).2 := by
  cases d with
  | reg r part => cases r <;> cases part <;> exact hs
  | packed k => exact hs
  | pix lane =>
    have hbytes : ∀ (n k : Nat) (u : State), EngineOk u → EngineOk (readPix lane k n u).2 := by
      intro n
      induction n with
      | zero => exact fun _ _ hu => hu
      | succ n ih => exact fun k u hu => ih (k + 1) _ (engineOk_readPixByte (lane + k) hu)
    exact hbytes _ 0 s hs
  | unmapped => exact hs
  | streams => exact hs

theorem engineOk_keptByMoves : KeptByMoves EngineOk where
  host _ hs := hs
  queued _ _ hs := hs
  written _ _ _ hs h := engineOk_dispatch hs h
  returned d w hs := engineOk_readValue d w hs
  drained _ hs h := by
    refine drain_keeps (P := EngineOk) (fun hu => hu) (fun _ _ _ hu hd => engineOk_dispatch hu hd) (fun hu => ?_) hs h
    unfold endDrain
    simp only
    split <;> exact hu
  signals _ hs := hs
  reset _ _ := engineOk_of_inactive rfl

end Sys2Proof.Machine

namespace Sys2Proof
open Sys2Proof.Machine

/-- Settles O59: a command starts a fresh operation, which runs to its end unless it takes CPU data; data only move a
waiting one on. -/
theorem engineKept : Obligations.EngineKept := by
  unfold Obligations.EngineKept
  exact fun s t hs hstep => engineOk_keptByMoves.step hs hstep

end Sys2Proof
end

section
/-!
PROOFS. The turns of the environment and the state after reset (spec/00_scope.md R15, R16; spec/70_reset_and_hazards.md
R450).
-/
namespace Sys2Proof.Machine

/-! ### The host's own turn (R15) -/

/-- A record stands at the head of the program only where the program has not ended. -/
theorem program_ne_nil_of_decode {bs rest : List Byte} {i : Instr} (h : decode bs = .ok (i, rest)) :
    bs.isEmpty = false := by
  cases bs with
  | nil => nomatch h
  | cons b bs => rfl

/-- With no access under way the host runs the operation at the head of its program (R15, R100). -/
theorem hostStep_of_decode {s : State} {i : Instr} {rest : List Byte} (hpending : s.host.pending = [])
    (hdecode : decode s.host.program = .ok (i, rest)) : hostStep s = exec i (withProgram rest s) := by
  simp only [hostStep, hpending, List.isEmpty_nil, if_true, issueNext, program_ne_nil_of_decode hdecode, hdecode,
    Bool.false_eq_true, if_false]

theorem step_host {s : State} {ts : List Turn} (h : s.host.sched = .host :: ts) :
    step s = hostStep (withSched ts s) := by
  simp only [step, stepOnce, h, turnStep]

theorem step_deviceReset {s : State} {ts : List Turn} (h : s.host.sched = .deviceReset :: ts) :
    step s = .next (deviceReset s.hostHeld (withSched ts s)) := by
  simp only [step, stepOnce, h, turnStep]
  rfl

theorem step_noTurn {s : State} (h : s.host.sched = []) :
    step s = if s.hostReady then hostStep s else engineStep s := by
  simp only [step, stepOnce, h, autoStep]

/-! ### After reset (R450, R68) -/

theorem zeroRegs_reset : zeroRegs Regs.reset := by
  unfold zeroRegs
  decide

theorem idleEng_reset : idleEng Eng.reset := by
  unfold idleEng
  decide

theorem emptyFifo_reset : emptyFifo Fifo.reset := by
  unfold emptyFifo
  decide

/-- Nothing is queued while the 8514 enable bit is 0 (R451). -/
theorem queuing_of_advfunc_zero {s : State} (h : s.regs.advfunc = 0) : s.queuing = false := by
  rw [State.queuing, h]
  exact Bool.and_false _

/-- The status words and the interrupt output depend on registers, engine and FIFO alone. -/
theorem status_of_reset {s : State} (hregs : s.regs = Regs.reset) (heng : s.eng = Eng.reset)
    (hfifo : s.fifo = Fifo.reset) : s.gpStat = 0 ∧ s.subsysStatWord = 0 ∧ s.irq = false := by
  simp only [State.gpStat, State.subsysStatWord, State.irq, State.busy, hregs, heng, hfifo]
  decide

/-- What a device reset leaves of the access under way (assumption log entry 25). -/
theorem pending_deviceReset {s : State} {p : Part} {ps : List Part} (ts : List Turn) (h : s.host.pending = p :: ps) :
    (deviceReset s.hostHeld (withSched ts s)).host.pending =
      if s.waits p then [] else (p :: ps).map fun q => { q with decided := none } := by
  simp only [deviceReset_host, dropHeld, State.hostHeld, withSched_host, h]
  rfl

end Sys2Proof.Machine

namespace Sys2Proof
open Sys2Proof.Machine

/-- Settles O4: with nothing under way the host's step takes the operation at the head of the program, whether its
turn is chosen or not. -/
theorem stepRunsDecoded : Obligations.StepRunsDecoded := by
  unfold Obligations.StepRunsDecoded
  intro s i rest hpending hdecode
  constructor
  · intro hsched
    have hready : s.hostReady = true := by
      simp only [State.hostReady, hpending, program_ne_nil_of_decode hdecode, Bool.not_false]
    rw [step_noTurn hsched, if_pos hready, hostStep_of_decode hpending hdecode]
    rfl
  · intro ts hsched
    rw [step_host hsched, hostStep_of_decode (s := withSched ts s) hpending hdecode]
    rfl

/-- Settles O5, by evaluation of the state after reset. -/
theorem resetState : Obligations.ResetState := by
  unfold Obligations.ResetState
  exact ⟨zeroRegs_reset, idleEng_reset, emptyFifo_reset, rfl, status_of_reset rfl rfl rfl⟩

/-- Settles O6: memory is empty, the FIFO too, the registers are 0 and no operation is active. -/
theorem resetSafe : Obligations.ResetSafe := by
  unfold Obligations.ResetSafe
  obtain ⟨hcoords, hstatus⟩ := (regsOk_iff State.reset).mp regsOk_reset
  refine ⟨⟨rfl, rfl⟩, ⟨Nat.zero_le _, rfl, rfl⟩, hcoords, hstatus, fun hactive => nomatch hactive⟩

/-- Settles O7: registers, engine and FIFO are those after power-on; the rest is kept, the access under way as
`dropHeld` says. -/
theorem deviceReset : Obligations.DeviceReset := by
  unfold Obligations.DeviceReset
  intro s ts hsched
  obtain ⟨hgp, hsubsys, hirq⟩ :=
    status_of_reset (s := Machine.deviceReset s.hostHeld (withSched ts s)) rfl rfl rfl
  exact ⟨_, step_deviceReset hsched, zeroRegs_reset, idleEng_reset, emptyFifo_reset, hgp, hsubsys, hirq,
    queuing_of_advfunc_zero rfl, rfl, rfl, rfl, rfl, rfl, rfl, rfl, fun _ _ => pending_deviceReset ts⟩

end Sys2Proof
end

section
/-!
PROOFS. Colour and mask registers, packed registers, stored reads, and the accesses of the streams engine
(spec/40_bus_access.md R156, R164, R171; spec/20_memory.md R92).
-/
namespace Sys2Proof.Machine

/-! ### Part of a colour or mask register (R156) -/

/-- Replacing `n` bits of a word at bit `h` by the low bits of a word below `2^n`. -/
theorem getLsbD_replaced {n h : Nat} (r m b : Word) (hm : ∀ i < 32, m.getLsbD i = decide (i < n))
    (hb : ∀ i, n ≤ i → b.getLsbD i = false) {i : Nat} (hi : i < 32) :
    ((r &&& ~~~(m <<< h)) ||| (b <<< h)).getLsbD i =
      if h ≤ i ∧ i < h + n then b.getLsbD (i - h) else r.getLsbD i := by
  simp only [BitVec.getLsbD_or, BitVec.getLsbD_and, BitVec.getLsbD_not, BitVec.getLsbD_shiftLeft, hi]
  by_cases hlo : i < h
  · simp [hlo, Nat.not_le.mpr hlo]
  · have hle : h ≤ i := Nat.le_of_not_lt hlo
    rw [hm (i - h) (by omega)]
    by_cases hhi : i < h + n
    · have : i - h < n := by omega
      simp [hlo, hle, hhi, this]
    · have : ¬ i - h < n := by omega
      simp [hlo, hhi, this, hb (i - h) (by omega)]

theorem getLsbD_setByteAt (r : Word) (h : Nat) (b : Byte) {i : Nat} (hi : i < 32) :
    (setByteAt r h b).getLsbD i = if h ≤ i ∧ i < h + 8 then b.getLsbD (i - h) else r.getLsbD i := by
  rw [setByteAt, getLsbD_replaced (n := 8) r 0xFF _ (by decide) ?_ hi]
  · split
    next hin => rw [BitVec.getLsbD_setWidth, decide_eq_true (by omega : i - h < 32), Bool.true_and]
    next => rfl
  · intro j hj
    rw [BitVec.getLsbD_setWidth, BitVec.getLsbD_of_ge _ _ hj, Bool.and_false]

theorem getLsbD_setHalfAt (r : Word) (h : Nat) (v : Half) {i : Nat} (hi : i < 32) :
    (setHalfAt r h v).getLsbD i = if h ≤ i ∧ i < h + 16 then v.getLsbD (i - h) else r.getLsbD i := by
  rw [setHalfAt, getLsbD_replaced (n := 16) r 0xFFFF _ (by decide) ?_ hi]
  · split
    next hin => rw [BitVec.getLsbD_setWidth, decide_eq_true (by omega : i - h < 32), Bool.true_and]
    next => rfl
  · intro j hj
    rw [BitVec.getLsbD_setWidth, BitVec.getLsbD_of_ge _ _ hj, Bool.and_false]

/-- The new value of a colour or mask register, by the part written and `MULT_MISC[4]`. -/
def colourPart (part : RegPart) (upper : Bool) (v r : Word) : Word :=
  match part, upper with
  | .lo, false => r.extractLsb' 8 24 ++ v.extractLsb' 0 8
  | .hi, false => r.extractLsb' 16 16 ++ (v.extractLsb' 0 8 ++ r.extractLsb' 0 8)
  | .word, false => r.extractLsb' 16 16 ++ v.extractLsb' 0 16
  | .lo, true => r.extractLsb' 24 8 ++ (v.extractLsb' 0 8 ++ r.extractLsb' 0 16)
  | .hi, true => v.extractLsb' 0 8 ++ r.extractLsb' 0 24
  | .word, true => v.extractLsb' 0 16 ++ r.extractLsb' 0 16

theorem writeColorPart_eq (part : RegPart) (g : Regs) (v r : Word) :
    writeColorPart part g.colorShift v r = colourPart part ((g.mf 0xE).getLsbD 4) v r := by
  apply BitVec.eq_of_getLsbD_eq
  intro i hi
  unfold Regs.colorShift Regs.multMisc colourPart writeColorPart
  cases (g.mf 0xE).getLsbD 4 <;> cases part <;>
    simp only [Bool.false_eq_true, if_false, if_true, getLsbD_setByteAt _ _ _ hi, getLsbD_setHalfAt _ _ _ hi,
      BitVec.getLsbD_append, BitVec.getLsbD_extractLsb', BitVec.getLsbD_setWidth] <;>
    grind

/-- Off byte-doubling chips at 16 bpp a colour write leaves the byte arrays and draws no free value (R44). -/
theorem lanes_kept {s : State} (l : ByteLanes) (h : byteDoubled s.cfg = false) :
    s.lanesAfter l = l ∧ s.drawsAfterColor = s.draws := by
  simp [State.lanesAfter, State.drawsAfterColor, h]

/-! ### Packed writes (R164) -/

theorem accessOf_packedWriteInstr (k : PackedReg) (win : Window) (v : Word) :
    accessOf (packedWriteInstr k win v) = (win.space, packedOffset k, .write .w32 v) := by cases k <;> rfl

/-- A write of a packed register, performed at once, stores its fields (R164). -/
theorem exec_packedWriteInstr (k : PackedReg) {win : Window} (v : Word) {s : State} (hnow : writesNow s)
    (hopen : packedOpen s win k) : exec (packedWriteInstr k win v) s = .next (writePacked k v s) := by
  have htarget := resolve_packed hopen
  obtain ⟨⟨hreach, halias⟩, -, -⟩ := hopen
  obtain ⟨hqueuing, hdrained⟩ := hnow
  have hwrite := hostAccess_dispatch win.space (packedOffset k) .w32 v s hreach (aliased_of_none _ _ _ halias)
    (by rw [htarget]; nofun) (by rw [htarget]; nofun) (by rw [hqueuing, Bool.and_false]) hdrained
  rw [exec_access, accessOf_packedWriteInstr, hwrite, htarget]
  show Host.Outcome.next (writePacked k (v &&& BitVec.allOnes 32) s) = _
  rw [BitVec.and_allOnes]

/-- No byte at a packed offset is a port's. -/
theorem isPort_packedOffset (k : PackedReg) : ∀ j < 4, isPort (packedOffset k + j) = false := by
  cases k <;> decide

/-- Where packed registers are not in force, the legacy window maps nothing at a packed offset (R402, R115). -/
theorem opensBus_packedOff (k : PackedReg) {s : State} (v : Word) (hreach : reaches s.cfg s.inputs .legacyMmio = true)
    (haliases : s.cfg.aliases = []) (hoff : (s.cfg.cap.hasPackedMmio && s.inputs.packedMmioMode) = false) :
    OpensBus s .w32 (packedWriteInstr k .legacy v) (packedReadInstr k .legacy) := by
  obtain ⟨hlo, -⟩ := packedOffset_range k
  have hhi : packedOffset k + widthBytes .w32 ≤ 0x10000 := by cases k <;> decide
  have hnamed : named s Window.legacy.space (packedOffset k) := ⟨hreach, by rw [haliases]; rfl⟩
  have hpacked : noPacked s Window.legacy.space (packedOffset k) := by
    rintro (hwin | ⟨hcap, hmode⟩)
    · nomatch hwin
    · rw [hcap, hmode] at hoff
      nomatch hoff
  exact opensBus_window (accessOf_packedWriteInstr k .legacy v) (accessOf_packedReadInstr k .legacy) hnamed hlo hhi
    (fun _ => hpacked) (portsUnmapped_of_not_isPort _ _ _ (isPort_packedOffset k))

/-! ### The streams engine (R92) -/

theorem resolve_streams (cfg : Config) (inp : Inputs) {off : BitVec 17} (w : Width) (h : 0x18000 ≤ off.toNat) :
    resolve cfg inp .newMmio off.toNat w = .streams := by
  have hlt : off.toNat < 0x20000 := off.isLt
  simp only [resolve, if_neg (by omega : ¬ off.toNat < 0x10000), if_neg (by omega : ¬ off.toNat < 0x18000),
    if_pos hlt]

/-- What belongs to the streams engine is refused, whatever waits (R92). -/
theorem hostAccess_streams {s : State} {off : BitVec 17} (act : BusAction) (h : 0x18000 ≤ off.toNat)
    (hreach : reaches s.cfg s.inputs .newMmio = true) :
    hostAccess .newMmio off.toNat act s = .refused .streamsEngine := by
  have htarget := resolve_streams s.cfg s.inputs act.width h
  have hheld : s.held (wholePart .newMmio off.toNat act) = false := by
    rw [wholePart_held, htarget, routeOf_streams, blocks_atOnce]
  rw [hostAccess_whole _ _ _ _ hreach (aliased_upper _ _ (by omega))
    (handledWhole_of_ne _ _ _ _ _ (by rw [htarget]; nofun))]
  cases act with
  | write w v =>
    rw [runPart_write _ _ w (v &&& widthMask w) (partAction_write w v) hheld, wholePart_decision, htarget]
    rfl
  | read w =>
    rw [runPart_read _ _ w (partAction_read w 0) hheld, wholePart_decision, htarget]
    rfl

end Sys2Proof.Machine

namespace Sys2Proof
open Sys2Proof.Machine

/-- Settles O10: the new value is `writeColorPart` of the old one, and the byte arrays are written only on a
byte-doubling chip at 16 bpp. -/
theorem colourWrites : Obligations.ColourWrites := by
  unfold Obligations.ColourWrites
  intro s odd w v part hform hnow new
  have hnew : new = writeColorPart part s.regs.colorShift v := by
    funext r
    exact (writeColorPart_eq part s.regs v r).symm
  have hwrite (r : PortReg) := exec_outInstr_of_writesNow r v hform hnow
  rw [hnew]
  exact ⟨fun hopen => ⟨_, _, hwrite .bkgdColor hopen, lanes_kept _⟩,
    fun hopen => ⟨_, _, hwrite .frgdColor hopen, lanes_kept _⟩,
    fun hopen => ⟨_, _, hwrite .wrtMask hopen, lanes_kept _⟩,
    fun hopen => ⟨_, _, hwrite .rdMask hopen, lanes_kept _⟩,
    fun hopen => ⟨_, _, hwrite .colorCmp hopen, lanes_kept _⟩⟩

/-- Settles O13: the low-byte case of `writeCmd`. -/
theorem cmdLowByte : Obligations.CmdLowByte := by
  unfold Obligations.CmdLowByte
  intro s v hopen hnow
  exact exec_outInstr_of_writesNow .cmd v formOf_low hnow hopen

/-- Settles O18: each of the ten is `writePacked` of its register. -/
theorem packedWrites : Obligations.PackedWrites := by
  unfold Obligations.PackedWrites
  intro s win v hnow
  have hwrite (k : PackedReg) (hopen : packedOpen s win k) := exec_packedWriteInstr k v hnow hopen
  exact ⟨fun hopen => ⟨_, _, hwrite .bkgdColor hopen, lanes_kept _⟩,
    fun hopen => ⟨_, _, hwrite .frgdColor hopen, lanes_kept _⟩,
    fun hopen => ⟨_, _, hwrite .wrtMask hopen, lanes_kept _⟩,
    fun hopen => ⟨_, _, hwrite .rdMask hopen, lanes_kept _⟩,
    fun hopen => ⟨_, _, hwrite .colorCmp hopen, lanes_kept _⟩,
    hwrite .mix, hwrite .scissorsTl, hwrite .scissorsBr, hwrite .pixCntlMisc2, hwrite .multMiscRdsel⟩

/-- Settles O20: at each of the ten offsets neither the whole access nor a byte of it decodes. -/
theorem packedOff : Obligations.PackedOff := by
  unfold Obligations.PackedOff
  intro s v hreach haliases hoff ones
  have hbus (k : PackedReg) := opensBus_packedOff k v hreach haliases hoff
  exact ⟨(hbus .bkgdColor).1, (hbus .bkgdColor).2, (hbus .frgdColor).1, (hbus .frgdColor).2, (hbus .wrtMask).1,
    (hbus .wrtMask).2, (hbus .rdMask).1, (hbus .rdMask).2, (hbus .colorCmp).1, (hbus .colorCmp).2, (hbus .mix).1,
    (hbus .mix).2, (hbus .scissorsTl).1, (hbus .scissorsTl).2, (hbus .scissorsBr).1, (hbus .scissorsBr).2,
    (hbus .pixCntlMisc2).1, (hbus .pixCntlMisc2).2, hbus .multMiscRdsel⟩

/-- Settles O21: each read is `readPart` of the register's low half. -/
theorem storedReads : Obligations.StoredReads := by
  unfold Obligations.StoredReads
  intro s odd w part hform hnow ret colour
  have hread (r : PortReg) (hopen : portOpen s .io r odd) := exec_inInstr r odd w part s hform hopen hnow
  have hret (r : Half) : ret r = .next (returnRead w (readPart part r) s) := by cases part <;> rfl
  have hlow (r : Word) : r.extractLsb' 0 16 = r.setWidth 16 := BitVec.setWidth_eq_extractLsb' (by decide) |>.symm
  have hcount : (0#4 ++ s.regs.majAxisPcnt : Half) = s.regs.majAxisPcnt.setWidth 16 := setWidth_entry _ |>.symm
  simp only [hret, colour, hlow, hcount]
  exact ⟨hread .advfunc, hread .curY, hread .curX, hread .destyAxstp, hread .destxDiastp, hread .errTerm,
    hread .majAxisPcnt, hread .shortStroke, hread .bkgdColor, hread .frgdColor, hread .wrtMask, hread .rdMask,
    hread .colorCmp, hread .bkgdMix, hread .frgdMix, hread .curY2, hread .curX2, hread .desty2, hread .destx2⟩

/-- Settles O30: reached, the access resolves to the streams engine; not reached, it misses the block. -/
theorem streamsRefused : Obligations.StreamsRefused := by
  unfold Obligations.StreamsRefused
  intro s off act hoff
  constructor
  · intro hreach
    rw [exec_access]
    exact hostAccess_streams act hoff hreach
  · intro hmiss
    rw [exec_missed (.mmioStreams off act) s hmiss]
    cases act with
    | write w v => rfl
    | read w => cases w <;> rfl

end Sys2Proof
end

section
/-!
PROOFS. A walk whose pixels stand in a row, as far as its data reach (spec/42_pixel_pipeline.md R212, R249), and the two
kinds of line (spec/43_lines.md R255, R260).
-/
namespace Sys2Proof.Machine

/-! ### What visited pixels change (R210, R212) -/

/-- One state comes from another by drawing: VRAM, the CPU data, the byte-doubling phase and the counter of free values
alone may differ. -/
def Drew (s t : State) : Prop :=
  ∃ m bits pix ph n, t = { s with
    vram := m, eng := { s.eng with cpuBits := bits, cpuPix := pix, phase16 := ph }, draws := n }

theorem Drew.refl (s : State) : Drew s s := ⟨s.vram, s.eng.cpuBits, s.eng.cpuPix, s.eng.phase16, s.draws, rfl⟩

theorem Drew.trans {s t u : State} (hst : Drew s t) (htu : Drew t u) : Drew s u := by
  obtain ⟨m, bits, pix, ph, n, rfl⟩ := hst
  obtain ⟨m', bits', pix', ph', n', rfl⟩ := htu
  exact ⟨m', bits', pix', ph', n', rfl⟩

theorem Drew.cmd_eq {s t : State} (h : Drew s t) : t.eng.cmd = s.eng.cmd := by
  obtain ⟨m, bits, pix, ph, n, rfl⟩ := h
  rfl

theorem Drew.cfg_eq {s t : State} (h : Drew s t) : t.cfg = s.cfg := by
  obtain ⟨m, bits, pix, ph, n, rfl⟩ := h
  rfl

theorem drew_pixel (x y : Int) (v p : Option Word) (sup : Bool) (s : State) : Drew s (pixel x y v p sup s) :=
  ⟨s.pixelVram x y v p sup, s.pixelEng.cpuBits, s.pixelEng.cpuPix, s.pixelEng.phase16, s.draws + 3, rfl⟩

/-! ### The data of a walk (R212, R249) -/

/-- The data reach `n` pixels: an operation without CPU data waits for none. -/
def Fed (s : State) (n : Nat) : Prop := takesCpu s.eng.cmd = true → n ≤ dataCount s

theorem hasData_iff (s : State) : s.hasData = true ↔ Fed s 1 := by
  unfold State.hasData Fed dataCount
  by_cases hsel : s.regs.mixSel = 2#2 <;> cases takesCpu s.eng.cmd <;>
    simp [hsel, Nat.one_le_iff_ne_zero]

/-- A visited pixel takes one mix bit or one CPU pixel (R212). -/
theorem dataCount_pixel (x y : Int) (v p : Option Word) (sup : Bool) {s : State} (h : takesCpu s.eng.cmd = true) :
    dataCount (pixel x y v p sup s) = dataCount s - 1 := by
  unfold dataCount
  by_cases hsel : s.regs.mixSel = 2#2 <;>
    simp [pixel, State.pixelEng, State.takesCpuBits, State.takesCpuPix, h, hsel]

/-- The places of a row's walk: where it stands before pixel `k`, which pixel it visits there, and that it has not come
to its last pixel within the first `n`, in the states that come from `s` by drawing. -/
structure Strides (s : State) (n : Nat) (stand pix : Nat → State → State) (last : State → Bool)
    (visit advance : State → State) : Prop where
  data : ∀ k u, (stand k u).hasData = u.hasData
  pixels : ∀ k u, ∃ x y v, pix k u = pixel x y v none false u
  visits : ∀ k < n, ∀ u, Drew s u → visit (stand k u) = stand k (pix k u)
  more : ∀ k < n, ∀ u, Drew s u → last (stand k u) = false
  advances : ∀ k < n, ∀ u, Drew s u → advance (stand k u) = stand (k + 1) u

theorem visitAll_range_succ (pix : Nat → State → State) (n : Nat) (s : State) :
    visitAll pix (List.range (n + 1)) s = pix n (visitAll pix (List.range n) s) := by
  rw [List.range_succ, visitAll_append]
  rfl

section
variable {pix : Nat → State → State} (hpix : ∀ k u, ∃ x y v, pix k u = pixel x y v none false u)
include hpix

theorem drew_visitAll_range (n : Nat) (s : State) : Drew s (visitAll pix (List.range n) s) := by
  induction n with
  | zero => exact .refl s
  | succ n ih =>
    obtain ⟨x, y, v, h⟩ := hpix n (visitAll pix (List.range n) s)
    rw [visitAll_range_succ, h]
    exact ih.trans (drew_pixel ..)

theorem dataCount_visitAll_range (n : Nat) {s : State} (h : takesCpu s.eng.cmd = true) :
    dataCount (visitAll pix (List.range n) s) = dataCount s - n := by
  induction n with
  | zero => rfl
  | succ n ih =>
    obtain ⟨x, y, v, hv⟩ := hpix n (visitAll pix (List.range n) s)
    have hcpu : takesCpu (visitAll pix (List.range n) s).eng.cmd = true := by
      rw [(drew_visitAll_range hpix n s).cmd_eq, h]
    rw [visitAll_range_succ, hv, dataCount_pixel _ _ _ _ _ hcpu, ih, Nat.sub_sub]

/-- Data for `n + m` pixels are data for `m` pixels after the first `n`. -/
theorem fed_visitAll_range {n m : Nat} {s : State} (h : Fed s (n + m)) :
    Fed (visitAll pix (List.range n) s) m := by
  intro hcpu
  rw [(drew_visitAll_range hpix n s).cmd_eq] at hcpu
  have hcount := h hcpu
  rw [dataCount_visitAll_range hpix n hcpu]
  omega

end

/-- While the data reach, the walk visits the row's pixels one after another. -/
theorem Strides.runWalk_eq {s : State} {n : Nat} {stand pix : Nat → State → State} {last : State → Bool}
    {visit advance : State → State} (hw : Strides s n stand pix last visit advance) (finish : State → State)
    (fuel : Nat) (hfed : Fed s n) :
    runWalk last visit advance finish (fuel + n) (stand 0 s) =
      runWalk last visit advance finish fuel (stand n (visitAll pix (List.range n) s)) := by
  suffices h : ∀ m ≤ n, ∀ fuel, runWalk last visit advance finish (fuel + m) (stand 0 s) =
      runWalk last visit advance finish fuel (stand m (visitAll pix (List.range m) s)) from h n le_rfl fuel
  intro m
  induction m with
  | zero => exact fun _ _ => rfl
  | succ m ih =>
    intro hm fuel
    let u := visitAll pix (List.range m) s
    have hdrew : Drew s u := drew_visitAll_range hw.pixels m s
    have hdrew' : Drew s (pix m u) := by
      obtain ⟨x, y, v, h⟩ := hw.pixels m u
      rw [h]
      exact hdrew.trans (drew_pixel ..)
    have hdata : (stand m u).hasData = true := by
      rw [hw.data, hasData_iff]
      exact fed_visitAll_range hw.pixels fun hcpu => (Nat.le_trans hm (hfed hcpu))
    calc runWalk last visit advance finish (fuel + (m + 1)) (stand 0 s)
        = runWalk last visit advance finish (fuel + 1) (stand m u) := by
          rw [← ih (Nat.le_of_succ_le hm) (fuel + 1), Nat.add_right_comm, Nat.add_assoc]
      _ = runWalk last visit advance finish fuel (stand (m + 1) (pix m u)) := by
          rw [runWalk_step _ _ _ _ _ _ hdata, hw.visits m hm u hdrew, hw.more m hm _ hdrew', if_neg (by decide),
            hw.advances m hm _ hdrew']
      _ = _ := by rw [visitAll_range_succ]

/-- A walk without data stays where it is (R249). -/
theorem runWalk_noData (last : State → Bool) (visit advance finish : State → State) (fuel : Nat) {s : State}
    (h : s.hasData = false) : runWalk last visit advance finish fuel s = s := by
  cases fuel with
  | zero => rfl
  | succ n => rw [runWalk, if_neg (by rw [h]; decide)]

/-! ### The walk of a line (R255, R260) -/

/-- The walk of a line at a position and error term, with `left` pixels after this one. -/
def lineAt (p : Int × Int × Int) (left : Int) (s : State) : State :=
  { s with eng := { s.eng with cx := p.1, cy := p.2.1, err := p.2.2, sy := left } }

/-- The first `n` pixels of a line. -/
def linePixels (place : Nat → Int × Int × Int) (n : Nat) : List (Int × Int) :=
  (List.range n).map fun k => ((place k).1, (place k).2.1)

/-- The line's step leads from each of its places to the next, in the states that come from `s` by drawing. -/
def LineSteps (s : State) (place : Nat → Int × Int × Int) (advance : State → State) : Prop :=
  ∀ k left u, Drew s u → advance (lineAt (place k) left u) = lineAt (place (k + 1)) (left - 1) u

theorem visitAll_linePixels (place : Nat → Int × Int × Int) (n : Nat) (s : State) :
    visitAll plain (linePixels place n) s =
      visitAll (fun k => plain ((place k).1, (place k).2.1)) (List.range n) s := List.foldl_map

/-- The last pixel of a line is visited after the plain ones. -/
theorem visitLine_concat (lpn : Bool) (ps : List (Int × Int)) (p : Int × Int) (s : State) :
    visitLine lpn (ps ++ [p]) s = pixel p.1 p.2 none none lpn (visitAll plain ps s) := by
  induction ps generalizing s with
  | nil => rfl
  | cons q ps ih => rw [List.cons_append, visitLine_cons _ _ _ (by simp), ih]; rfl

theorem lineVisit_lineAt (p : Int × Int × Int) (left : Int) (s : State) :
    lineVisit (lineAt p left s) =
      lineAt p left (pixel p.1 p.2.1 none none (s.lpnSuppress (decide (left = 0))) s) := rfl

theorem strides_line {s : State} {n m : Nat} {place : Nat → Int × Int × Int} {advance : State → State}
    (hadv : LineSteps s place advance) (hn : n ≤ m) :
    Strides s n (fun k => lineAt (place k) (m - k)) (fun k => plain ((place k).1, (place k).2.1)) lineLast lineVisit
      advance where
  data _ _ := rfl
  pixels k u := ⟨(place k).1, (place k).2.1, none, rfl⟩
  visits k hk u _ := by
    have hmore : decide ((m : Int) - k = 0) = false := decide_eq_false (by omega)
    rw [lineVisit_lineAt, hmore]
    rfl
  more k hk u _ := decide_eq_false (show ¬ (m : Int) - k = 0 by omega)
  advances k hk u hu := by rw [hadv k _ u hu, pixelsLeft_succ]

section
variable {s : State} {m : Nat} {place : Nat → Int × Int × Int} {advance : State → State}
  (hadv : LineSteps s place advance) (finish : State → State)
include hadv

/-- A line that has data for all its pixels visits them, the last one as last-pixel-null says, and finishes (R255). -/
theorem line_ends (hfed : Fed s (m + 1)) :
    runWalk lineLast lineVisit advance finish (m + 1) (lineAt (place 0) m s) =
      finish (lineAt (place m) 0
        (visitLine (s.cfg.lpnHonoured && cmdLpn s.eng.cmd) (linePixels place (m + 1)) s)) := by
  have hwalk := (strides_line hadv (le_refl m)).runWalk_eq finish 1 fun h => Nat.le_of_succ_le (hfed h)
  rw [Nat.add_comm 1 m] at hwalk
  simp only [Nat.cast_zero, sub_zero, sub_self, ← visitAll_linePixels] at hwalk
  have hdrew : Drew s (visitAll plain (linePixels place m) s) := by
    rw [visitAll_linePixels]
    exact drew_visitAll_range (fun k u => ⟨_, _, none, rfl⟩) m s
  have hdata : (lineAt (place m) 0 (visitAll plain (linePixels place m) s)).hasData = true := by
    show (visitAll plain (linePixels place m) s).hasData = true
    rw [hasData_iff, visitAll_linePixels]
    exact fed_visitAll_range (fun k u => ⟨_, _, none, rfl⟩) hfed
  have hsplit : linePixels place (m + 1) = linePixels place m ++ [((place m).1, (place m).2.1)] := by
    simp [linePixels, List.range_succ]
  have hsup : (visitAll plain (linePixels place m) s).lpnSuppress (decide ((0 : Int) = 0)) =
      (s.cfg.lpnHonoured && cmdLpn s.eng.cmd) := by
    rw [State.lpnSuppress, hdrew.cfg_eq, hdrew.cmd_eq]
    rfl
  rw [hwalk, runWalk_step _ _ _ _ _ _ hdata, lineVisit_lineAt, hsup, hsplit, visitLine_concat]
  exact if_pos (decide_eq_true rfl)

/-- A line waits before the first pixel that it has no data for (R249). -/
theorem line_waits {n : Nat} (hcpu : takesCpu s.eng.cmd = true) (hcount : dataCount s = n) (hn : n ≤ m) :
    runWalk lineLast lineVisit advance finish (m + 1) (lineAt (place 0) m s) =
      lineAt (place n) (m - n) (visitAll plain (linePixels place n) s) := by
  have hwalk := (strides_line hadv hn).runWalk_eq finish (m + 1 - n) fun _ => hcount.ge
  rw [Nat.sub_add_cancel (Nat.le_succ_of_le hn)] at hwalk
  simp only [Nat.cast_zero, sub_zero, ← visitAll_linePixels] at hwalk
  rw [hwalk]
  apply runWalk_noData
  rw [Bool.eq_false_iff]
  intro hdata
  have hdrew := drew_visitAll_range (pix := fun k => plain ((place k).1, (place k).2.1))
    (fun k u => ⟨_, _, none, rfl⟩) n s
  have hmore : Fed (visitAll plain (linePixels place n) s) 1 := (hasData_iff _).mp hdata
  rw [visitAll_linePixels] at hmore
  have hleft := hmore (by rw [hdrew.cmd_eq, hcpu])
  rw [dataCount_visitAll_range (pix := fun k => plain ((place k).1, (place k).2.1)) (fun k u => ⟨_, _, none, rfl⟩) n
    hcpu] at hleft
  omega

end

/-- The machine's Bresenham step is the one on position and error term (R255). -/
theorem lineAdvance_lineAt (q : Int × Int × Int) (left : Int) (s : State) :
    lineAdvance (lineAt q left s) = lineAt (bresenham s.eng.cmd s.eng.ax s.eng.dia q) (left - 1) s := by
  unfold lineAdvance Eng.lineStep bresenham lineAt
  by_cases herr : 0 ≤ q.2.2 <;> by_cases hmaj : cmdYmaj s.eng.cmd = true <;> simp [herr, hmaj]

theorem lineSteps_bresenham {s : State} (p : Int × Int × Int) :
    LineSteps s (fun k => after (bresenham s.eng.cmd s.eng.ax s.eng.dia) k p) lineAdvance := by
  intro k left u hu
  have hnext := after_succ (bresenham s.eng.cmd s.eng.ax s.eng.dia) k p
  obtain ⟨m, bits, pix, ph, n, rfl⟩ := hu
  rw [lineAdvance_lineAt]
  simp only [hnext]

/-- A radial step goes on in the line's direction (R260). -/
theorem lineSteps_radial {s : State} (x y err : Int) :
    LineSteps s (fun k => (x + k * ddx (cmdDir s.eng.cmd), y + k * ddy (cmdDir s.eng.cmd), err)) radialAdvance := by
  intro k left u hu
  obtain ⟨m, bits, pix, ph, n, rfl⟩ := hu
  simp only [radialAdvance, lineAt, position_succ]

/-! ### A line without CPU data -/

/-- A Bresenham line begun, but for its position. -/
def lineBegun (s : State) : State :=
  activate { s with eng := { s.eng with ax := s.regs.destyAxstp.toInt, dia := s.regs.destxDiastp.toInt } }

theorem cmdRadial_cmdWord (cls : BitVec 3) (o : CmdOpts) : cmdRadial (cmdWord cls o) = o.radial := by
  simp only [cmdRadial, cmdWord, BitVec.getLsbD_append]
  simp

theorem initOp_line {s : State} (h : s.eng.cls = 1) (hr : cmdRadial s.eng.cmd = false) : initOp s = lineInit s := by
  rw [initOp, h]
  exact if_neg (by rw [hr]; decide)

theorem initOp_radial {s : State} (h : s.eng.cls = 1) (hr : cmdRadial s.eng.cmd = true) :
    initOp s = radialInit s := by
  rw [initOp, h]
  exact if_pos hr

theorem runOp_line {s : State} (h : s.eng.cls = 1) (hr : cmdRadial s.eng.cmd = false) : runOp s = lineRun s := by
  rw [runOp, h]
  exact if_neg (by rw [hr]; decide)

theorem runOp_radial {s : State} (h : s.eng.cls = 1) (hr : cmdRadial s.eng.cmd = true) : runOp s = radialRun s := by
  rw [runOp, h]
  exact if_pos hr

/-- A class has no gate but the polygon, the polyline and the ROPBlt (R121). -/
theorem gate_ungated (cap : Cap) {cls : BitVec 3} (h : cls = 1 ∨ cls = 2 ∨ cls = 6) : gate cap cls = true := by
  rcases h with rfl | rfl | rfl <;> rfl

/-- A command without CPU data runs at once to its end (R154). -/
theorem commandWrite_runs {s : State} {sp : Space} {c : Half} (hnow : commandNow s sp)
    (hgate : gate s.cfg.cap (cmdClass c) = true) (hok : refusedCommand s false c = none) (hcpu : takesCpu c = false) :
    commandWrite sp c s = .next (runOp (activate (initOp (commandState c s)))) := by
  rw [commandWrite_begins hnow hgate hok, beginOp_of_not_takesCpu]
  rw [(initOp_keeps _).1]
  exact hcpu

theorem takesCpu_of_pcdata {cls : BitVec 3} {o : CmdOpts} (h : o.pcdata = false) :
    takesCpu (cmdWord cls o) = false := by
  rw [takesCpu, cmdPcdata_cmdWord, h]
  rfl

end Sys2Proof.Machine

namespace Sys2Proof
open Sys2Proof.Machine

/-- Settles O45: the machine's walk takes the Bresenham steps, and its end stores its last place. -/
theorem lineCommand : Obligations.LineCommand := by
  unfold Obligations.LineCommand
  intro s sp o c hnow hradial hpcdata hok n next start last
  have hclass : cmdClass c = 1 := cmdClass_cmdWord 1 o
  have hcpu : takesCpu c = false := takesCpu_of_pcdata hpcdata
  have hbresenham : cmdRadial c = false := (cmdRadial_cmdWord 1 o).trans hradial
  have hrun : runOp (activate (initOp (commandState c s))) =
      lineFinish (lineAt last 0 (lineBegun
        (visitLine (s.cfg.lpnHonoured && o.lpn) (walkPixels next n start) (commandState c s)))) := by
    have hfed : Fed (lineBegun (commandState c s)) (n + 1) := fun h => absurd (hcpu.symm.trans h) (by decide)
    have hends := line_ends (m := n) (lineSteps_bresenham (s := lineBegun (commandState c s)) start) lineFinish hfed
    rw [← visitLine_comm lineBegun (fun _ _ _ _ => rfl), ← cmdLpn_cmdWord 1 o]
    calc runOp (activate (initOp (commandState c s)))
        = lineRun (activate (lineInit (commandState c s))) := by
          rw [initOp_line (s := commandState c s) hclass hbresenham]
          exact runOp_line (s := activate (lineInit (commandState c s))) hclass hbresenham
      _ = _ := hends
  have houtside := sameOutside_visitLine (s.cfg.lpnHonoured && o.lpn) (walkPixels next n start) (commandState c s)
  obtain ⟨m, ph, d, hdrew⟩ :=
    onlyDrew_visitLine (s.cfg.lpnHonoured && o.lpn) (walkPixels next n start) (s := commandState c s) hcpu
  refine ⟨_, (commandWrite_runs hnow (gate_ungated _ (.inl hclass)) hok hcpu).trans (by rw [hrun]), ?_⟩
  rw [hdrew] at houtside ⊢
  exact ⟨⟨rfl, rfl, rfl, rfl, rfl, rfl, rfl, rfl, rfl⟩, houtside⟩

/-- Settles O46: the machine's walk goes on in its direction, and its end stores its last position. -/
theorem radialCommand : Obligations.RadialCommand := by
  unfold Obligations.RadialCommand
  intro s sp o c hnow hradial hpcdata hok n x y d
  have hclass : cmdClass c = 1 := cmdClass_cmdWord 1 o
  have hcpu : takesCpu c = false := takesCpu_of_pcdata hpcdata
  have hray : cmdRadial c = true := (cmdRadial_cmdWord 1 o).trans hradial
  have hrun : runOp (activate (initOp (commandState c s))) =
      radialFinish (lineAt (x + n * ddx d, y + n * ddy d, s.eng.err) 0 (activate
        (visitLine (s.cfg.lpnHonoured && o.lpn) (rayPixels d n x y) (commandState c s)))) := by
    have hfed : Fed (activate (commandState c s)) (n + 1) := fun h => absurd (hcpu.symm.trans h) (by decide)
    have hends := line_ends (m := n) (lineSteps_radial (s := activate (commandState c s)) x y s.eng.err) radialFinish
      hfed
    have hstart : lineAt (x + (0 : Nat) * ddx d, y + (0 : Nat) * ddy d, s.eng.err) n (activate (commandState c s)) =
        activate (radialInit (commandState c s)) := by
      simp only [Nat.cast_zero, zero_mul, add_zero]
      rfl
    rw [← visitLine_comm activate (fun _ _ _ _ => rfl), ← cmdLpn_cmdWord 1 o]
    calc runOp (activate (initOp (commandState c s)))
        = radialRun (activate (radialInit (commandState c s))) := by
          rw [initOp_radial (s := commandState c s) hclass hray]
          exact runOp_radial (s := activate (radialInit (commandState c s))) hclass hray
      _ = runWalk lineLast lineVisit radialAdvance radialFinish (n + 1)
            (lineAt (x + (0 : Nat) * ddx d, y + (0 : Nat) * ddy d, s.eng.err) n (activate (commandState c s))) := by
          rw [hstart]
          rfl
      _ = _ := hends
  have houtside := sameOutside_visitLine (s.cfg.lpnHonoured && o.lpn) (rayPixels d n x y) (commandState c s)
  obtain ⟨m, ph, e, hdrew⟩ :=
    onlyDrew_visitLine (s.cfg.lpnHonoured && o.lpn) (rayPixels d n x y) (s := commandState c s) hcpu
  refine ⟨_, (commandWrite_runs hnow (gate_ungated _ (.inl hclass)) hok hcpu).trans (by rw [hrun]), ?_⟩
  rw [hdrew] at houtside ⊢
  exact ⟨⟨rfl, rfl, rfl, rfl, rfl, rfl, rfl, rfl, rfl⟩, houtside⟩

end Sys2Proof
end

section
/-!
PROOFS. Rectangle fills, commands with CPU data, gated and refused commands (spec/44_fills.md R280, R285;
spec/40_bus_access.md R154; spec/60_exceptions.md R402, R404).
-/
namespace Sys2Proof.Machine

/-! ### A rectangle without CPU data (R280) -/

theorem initOp_rect {s : State} (h : s.eng.cls = 2) (hr : isReadBack s.eng.cmd = false) : initOp s = rectInit s := by
  rw [initOp, h]
  exact if_neg (by rw [hr]; decide)

theorem initOp_readBack {s : State} (h : s.eng.cls = 2) (hr : isReadBack s.eng.cmd = true) :
    initOp s = readBackInit s := by
  rw [initOp, h]
  exact if_pos hr

theorem runOp_rect {s : State} (h : s.eng.cls = 2) : runOp s = rectRun s := by
  rw [runOp, h]
  rfl

theorem isReadBack_of_pcdata {c : Half} (h : cmdPcdata c = false) : isReadBack c = false := by
  rw [isReadBack, h, Bool.and_false]
  rfl

theorem isReadBack_of_wrtdata {c : Half} (h : cmdWrtdata c = true) : isReadBack c = false := by
  rw [isReadBack, h]
  exact Bool.and_false _

/-- A pixel of a rectangle's row, with no source. -/
def rectPixel (c : Half) (x y : Int) : Int × Int → State → State :=
  blitted c x y (fun _ _ => none) (fun _ _ => none)

theorem visitAll_rectPixels (c : Half) (x y : Int) (w h : Nat) (s : State) :
    visitAll plain (rectPixels c x y w h) s = visitAll (rectPixel c x y) (grid w h) s := List.foldl_map

/-- A rectangle's end leaves its pixels, the row after the last and `GE_DONE` (R280). -/
theorem finished_rect (c : Half) (s : State) {u : State} {k : BlitPlace} (h : Nat) (w : Nat)
    (hu : OnlyDrew (commandState c s) u) :
    Finished s (rectFinish (blitAt (k.dest c w h) u)) u.vram
      { doneRegs s c with curY := BitVec.ofNat 32 (reduce s.cfg (k.cy + (h + 1) * dirY c)) } := by
  obtain ⟨m, ph, n, rfl⟩ := hu
  have hrow : k.cy + (h + 1) * dirY c = k.cy + h * dirY c + dirY c := by ring
  rw [hrow]
  exact ⟨rfl, rfl, rfl, rfl, rfl, rfl, rfl, rfl, rfl⟩

/-! ### Commands with CPU data (R154) -/

/-- A command that takes or gives CPU data only starts (R154). -/
theorem commandWrite_suspends {s : State} {sp : Space} {c : Half} (hnow : commandNow s sp)
    (hok : refusedCommand s false c = none) (hcpu : takesCpu c = true) :
    commandWrite sp c s = .next (activate (initOp (commandState c s))) := by
  have hcmd : (activate (initOp (commandState c s))).eng.cmd = c := (initOp_keeps _).1
  rw [commandWrite_begins hnow (gate_ungated _ (cmdClass_of_takesCpu hcpu)) hok, beginOp]
  exact congrArg Host.Outcome.next (if_pos (by rw [hcmd, hcpu]))

theorem takesCpu_cmdWord {cls : BitVec 3} {o : CmdOpts} (h : o.pcdata = true) (hcls : cls = 1 ∨ cls = 2 ∨ cls = 6) :
    takesCpu (cmdWord cls o) = true := by
  rw [takesCpu, cmdPcdata_cmdWord, cmdClass_cmdWord, h]
  rcases hcls with rfl | rfl | rfl <;> rfl

theorem cmdWrtdata_cmdWord (cls : BitVec 3) (o : CmdOpts) : cmdWrtdata (cmdWord cls o) = o.wrtdata := by
  simp only [cmdWrtdata, cmdWord, BitVec.getLsbD_append]
  simp

/-- The state a started operation waits in: `CMD` stored, nothing drawn, no data, the engine busy. -/
def Started (s t : State) (c : Half) (readBack : Bool) : Prop :=
  t.vram = s.vram ∧ t.regs = { s.regs with cmd := c } ∧ t.eng.active = true ∧ t.eng.cls = cmdClass c ∧
    t.eng.cmd = c ∧
    t.eng.cpuBits = [] ∧ t.eng.cpuPix = [] ∧ t.eng.pixCount = 0 ∧ t.eng.dataAvailable = readBack ∧
    t.gpStat.getLsbD 9 = true ∧ sameContext s t

theorem gpStat_busy_of_active {s : State} (h : s.eng.active = true) : s.gpStat.getLsbD 9 = true := by
  rw [gpStat_busy, busy_iff]
  exact .inl h

/-! ### A class the chip lacks (R402) -/

/-- A command of a gated class stores `CMD` and drops the old operation (R402). -/
theorem commandWrite_gated {s : State} {sp : Space} {c : Half} (hnow : commandNow s sp)
    (hgate : gate s.cfg.cap (cmdClass c) = false) : commandWrite sp c s = .next (commandState c s) := by
  obtain ⟨hopen, hwrites⟩ := hnow
  have hwrite := hostAccess_portWrite (c.setWidth 32) (by decide) formOf_word hopen hwrites
  have hgate' : gate (commandState c s).cfg.cap (commandState c s).eng.cls = false := hgate
  calc commandWrite sp c s
      = startOp (writeCmdHigh (c.setWidth 32 >>> 8) (writeCmdLow (c.setWidth 32) s)) := hwrite
    _ = .next (commandState c s) := by
        simp only [startOp, latchCmd_writeCmd, hgate', Bool.false_eq_true, if_false]

/-! ### What is refused (R154, R404) -/

theorem commandWrite_refused {s : State} {sp : Space} {c : Half} {r : Refusal} (hnow : commandNow s sp)
    (hgate : gate s.cfg.cap (cmdClass c) = true) (hno : refusedCommand s false c = some r) :
    commandWrite sp c s = .refused r := by
  obtain ⟨hopen, hwrites⟩ := hnow
  have hwrite := hostAccess_portWrite (c.setWidth 32) (by decide) formOf_word hopen hwrites
  have hgate' : gate (commandState c s).cfg.cap (commandState c s).eng.cls = true := hgate
  have hno' : refusedCommand (commandState c s) false (commandState c s).eng.cmd = some r := hno
  calc commandWrite sp c s
      = startOp (writeCmdHigh (c.setWidth 32 >>> 8) (writeCmdLow (c.setWidth 32) s)) := hwrite
    _ = .refused r := by
        simp only [startOp, latchCmd_writeCmd, hgate', hno', if_true]

/-- Every row of a class is the command of its word. -/
theorem exec_cmdInstr (sp : Space) (c : Half) (s : State) : exec (cmdInstr sp c) s = commandWrite sp c s := by
  have hword := cmdWord_cmdOptsOf c
  have hclass : ∀ k : BitVec 3, (cmdClass c).toNat = k.toNat →
      commandWrite sp (cmdWord k (cmdOptsOf c)) s = commandWrite sp c s := fun k hk => by
    rw [← BitVec.eq_of_toNat_eq hk, hword]
  unfold cmdInstr
  simp only
  split
  next h => exact hclass 0 h
  next h => split <;> exact hclass 1 h
  next h =>
    split
    · split <;> exact hclass 2 h
    · exact hclass 2 h
  next h => split <;> exact hclass 3 h
  next h => exact hclass 4 h
  next h => exact hclass 5 h
  next h => exact hclass 6 h
  next =>
    have h7 : (cmdClass c).toNat = (7 : BitVec 3).toNat := by
      have hlt := (cmdClass c).isLt
      simp only [imp_false] at *
      show (cmdClass c).toNat = 7
      omega
    exact hclass 7 h7

/-- Drawing on a byte-doubling chip at 16 bpp (R27). -/
theorem refusedCommand_doubling {s : State} {stroke : Bool} {c : Half}
    (h : (byteDoubled s.cfg && drawsPixels stroke c) = true) :
    refusedCommand s stroke c = some .byteDoubling16bpp := if_pos h

/-- The packed 32 bpp sub-mode (R28). -/
theorem refusedCommand_packed {s : State} {stroke : Bool} {c : Half}
    (h : (byteDoubled s.cfg && drawsPixels stroke c) = false)
    (h' : (s.cfg.cap.hasPacked32 && decide (cmdBus c = 3)) = true) :
    refusedCommand s stroke c = some .packed32SubMode := by
  simp only [refusedCommand, h, h', Bool.false_eq_true, if_false, if_true]

/-- CPU pixels that do not fit the unit (R29, R242). -/
theorem refusedCommand_noFit {s : State} {stroke : Bool} {c : Half}
    (h : (byteDoubled s.cfg && drawsPixels stroke c) = false)
    (h' : (s.cfg.cap.hasPacked32 && decide (cmdBus c = 3)) = false)
    (hfit : (fedPixels s.regs c && pixelsDoNotFit s.cfg c) = true) :
    refusedCommand s stroke c = some .cpuPixelPacking := by
  simp only [refusedCommand, h, h', hfit, Bool.false_eq_true, if_false, if_true]

/-- Nothing else is refused (R404). -/
theorem refusedCommand_none {s : State} {stroke : Bool} {c : Half}
    (h : (byteDoubled s.cfg && drawsPixels stroke c) = false)
    (h' : (s.cfg.cap.hasPacked32 && decide (cmdBus c = 3)) = false)
    (hfit : (fedPixels s.regs c && pixelsDoNotFit s.cfg c) = false) : refusedCommand s stroke c = none := by
  simp only [refusedCommand, h, h', hfit, Bool.false_eq_true, if_false]

end Sys2Proof.Machine

namespace Sys2Proof
open Sys2Proof.Machine

/-- Settles O48: the walk sweeps the rectangle with no source, and its end stores the row after the last. -/
theorem rectCommand : Obligations.RectCommand := by
  unfold Obligations.RectCommand
  intro s sp o c hnow hpcdata hok w h x y
  let k : BlitPlace := (rectInit (commandState c s)).eng.blitPlace
  have hclass : cmdClass c = 2 := cmdClass_cmdWord 2 o
  have hcpu : takesCpu c = false := takesCpu_of_pcdata hpcdata
  have hread : isReadBack c = false := isReadBack_of_pcdata ((cmdPcdata_cmdWord 2 o).trans hpcdata)
  have hsweeps : Sweeps (commandState c s) w h (k.dest c) rectVisit rectAdvance (rectPixel c x y) :=
    sweeps_dest hcpu rfl rfl fun i j u _ => rfl
  have hrun : runOp (activate (initOp (commandState c s))) =
      rectFinish (blitAt (k.dest c w h) (visitAll (rectPixel c x y) (grid w h) (commandState c s))) := by
    calc runOp (activate (initOp (commandState c s)))
        = rectRun (blitAt k (commandState c s)) := by
          rw [initOp_rect (s := commandState c s) hclass hread]
          exact runOp_rect (s := activate (rectInit (commandState c s))) hclass
      _ = runWalk rectLast rectVisit rectAdvance rectFinish (w + h * (w + 1) + 1)
            (blitAt (k.dest c 0 0) (commandState c s)) := by
          rw [k.dest_zero c rfl rfl]
          rfl
      _ = _ := hsweeps.runWalk_grid rectFinish
  have hwrite := commandWrite_runs hnow (gate_ungated _ (.inr (.inl hclass))) hok hcpu
  have houtside : sameOutside s (visitAll (rectPixel c x y) (grid w h) (commandState c s)) (rectPixels c x y w h) :=
    sameOutside_visitAll_blitted c x y (fun _ _ => none) (fun _ _ => none) (grid w h) (commandState c s)
  rw [hrun] at hwrite
  rw [visitAll_rectPixels]
  exact ⟨_, hwrite, finished_rect c s h w (hsweeps.draws_all _ (.refl _)), houtside⟩

/-- Settles O49: the start of each class latches its geometry and draws nothing. -/
theorem cpuCommandsSuspend : Obligations.CpuCommandsSuspend := by
  unfold Obligations.CpuCommandsSuspend
  intro s sp o hnow hpcdata x y n h waits
  have hstart {cls : BitVec 3} (i : Instr) {geometry : Eng → Prop}
      (hexec : exec i s = commandWrite sp (cmdWord cls o) s)
      (hcls : cls = 1 ∨ cls = 2 ∨ cls = 6)
      (hstarted : Started s (activate (initOp (commandState (cmdWord cls o) s))) (cmdWord cls o)
        (decide (cls = 2) && !o.wrtdata))
      (hgeometry : geometry (activate (initOp (commandState (cmdWord cls o) s))).eng) : waits cls i geometry := by
    intro hok
    have hnext := commandWrite_suspends hnow hok (takesCpu_cmdWord hpcdata hcls)
    obtain ⟨hvram, hregs, hactive, hclass, hcmd, hbits, hpix, hcount, hdata, hbusy, hcontext⟩ := hstarted
    exact ⟨_, hexec.trans hnext, hvram, hregs, hactive, hclass.trans (cmdClass_cmdWord cls o), hcmd, hbits,
      hpix, hcount,
      hdata, hbusy, hcontext, hgeometry⟩
  clear_value waits
  refine ⟨fun hradial => ?line, fun hradial => ?radial, fun hwrt => ?fill, fun hread => ?readBack, ?blit⟩
  case line =>
    have hinit := initOp_line (s := commandState (cmdWord 1 o) s) (cmdClass_cmdWord 1 o)
      ((cmdRadial_cmdWord 1 o).trans hradial)
    refine hstart (.line sp o) rfl (.inl rfl) ?_ ?_ <;> rw [hinit]
    · exact ⟨rfl, rfl, rfl, rfl, rfl, rfl, rfl, rfl, rfl, gpStat_busy_of_active rfl, rfl, rfl, rfl, rfl⟩
    · exact ⟨rfl, rfl, rfl, rfl, rfl, rfl⟩
  case radial =>
    have hinit := initOp_radial (s := commandState (cmdWord 1 o) s) (cmdClass_cmdWord 1 o)
      ((cmdRadial_cmdWord 1 o).trans hradial)
    refine hstart (.lineRadial sp o) rfl (.inl rfl) ?_ ?_ <;> rw [hinit]
    · exact ⟨rfl, rfl, rfl, rfl, rfl, rfl, rfl, rfl, rfl, gpStat_busy_of_active rfl, rfl, rfl, rfl, rfl⟩
    · exact ⟨rfl, rfl, rfl⟩
  case fill =>
    have hinit := initOp_rect (s := commandState (cmdWord 2 o) s) (cmdClass_cmdWord 2 o)
      (isReadBack_of_wrtdata ((cmdWrtdata_cmdWord 2 o).trans hwrt))
    refine hstart (.rectCpu sp o) rfl (.inr (.inl rfl)) ?_ ?_ <;> rw [hinit]
    · rw [hwrt]
      exact ⟨rfl, rfl, rfl, rfl, rfl, rfl, rfl, rfl, rfl, gpStat_busy_of_active rfl, rfl, rfl, rfl, rfl⟩
    · exact ⟨rfl, rfl, rfl, rfl, rfl, rfl⟩
  case readBack =>
    have hback : isReadBack (cmdWord 2 o) = true := by
      rw [isReadBack, cmdClass_cmdWord, cmdPcdata_cmdWord, cmdWrtdata_cmdWord, hpcdata, hread]
      rfl
    have hinit := initOp_readBack (s := commandState (cmdWord 2 o) s) (cmdClass_cmdWord 2 o) hback
    refine hstart (.rectRead sp o) rfl (.inr (.inl rfl)) ?_ ?_ <;> rw [hinit]
    · rw [hread]
      exact ⟨rfl, rfl, rfl, rfl, rfl, rfl, rfl, rfl, rfl, gpStat_busy_of_active rfl, rfl, rfl, rfl, rfl⟩
    · exact ⟨rfl, rfl, rfl, rfl, rfl, rfl, rfl, rfl⟩
  case blit =>
    have hinit := initOp_bitblt (s := commandState (cmdWord 6 o) s) (cmdClass_cmdWord 6 o)
    refine hstart (.bitblt sp o) rfl (.inr (.inr rfl)) ?_ ?_ <;> rw [hinit]
    · exact ⟨rfl, rfl, rfl, rfl, rfl, rfl, rfl, rfl, rfl, gpStat_busy_of_active rfl, rfl, rfl, rfl, rfl⟩
    · exact ⟨rfl, rfl, rfl, rfl, rfl, rfl, rfl, rfl, rfl⟩

/-- Settles O54: each gated class, by its capability. -/
theorem gatedCommands : Obligations.GatedCommands := by
  unfold Obligations.GatedCommands
  intro s sp o hnow
  have hgated (cls : BitVec 3) (hgate : gate s.cfg.cap cls = false) :
      commandWrite sp (cmdWord cls o) s = .next (commandState (cmdWord cls o) s) :=
    commandWrite_gated hnow (by rw [cmdClass_cmdWord, hgate])
  exact ⟨fun hcap => ⟨hgated 3 hcap, hgated 3 hcap⟩, hgated 4, hgated 5⟩

end Sys2Proof
end

section
/-!
PROOFS. Accesses that are no access of one register, in parts (spec/20_memory.md R86, R95, R103).
-/
namespace Sys2Proof.Machine

/-! ### When an access is one bus operation (R86, R112) -/

theorem oneAccess_of_mapped {s : State} {sp : Space} {a : Nat} {w : Width}
    (h : resolve s.cfg s.inputs sp a w ≠ .unmapped) : oneAccess s sp a w = true := by
  simp [oneAccess, h]

theorem oneAccess_of_silent {s : State} {sp : Space} {a : Nat} {w : Width}
    (h : ∀ k < widthBytes w, resolve s.cfg s.inputs sp (a + k) .w8 = .unmapped) : oneAccess s sp a w = true := by
  have hall : ((List.range (widthBytes w)).all fun k => decide (resolve s.cfg s.inputs sp (a + k) .w8 = .unmapped)) =
      true := List.all_eq_true.mpr fun k hk => decide_eq_true (h k (List.mem_range.mp hk))
  rw [oneAccess, hall, Bool.or_true]

theorem not_oneAccess {s : State} {sp : Space} {a : Nat} {w : Width} (k : Nat)
    (hw : resolve s.cfg s.inputs sp a w = .unmapped) (hk : k < widthBytes w)
    (hbyte : resolve s.cfg s.inputs sp (a + k) .w8 ≠ .unmapped) : oneAccess s sp a w = false := by
  rw [oneAccess, hw]
  simp only [ne_eq, not_true_eq_false, decide_false, Bool.false_or, List.all_eq_false, List.mem_range]
  exact ⟨k, hk, by simpa using hbyte⟩

theorem unmapped_of_not_oneAccess {s : State} {sp : Space} {a : Nat} {w : Width} (h : oneAccess s sp a w = false) :
    resolve s.cfg s.inputs sp a w = .unmapped := by
  by_contra hmapped
  rw [oneAccess_of_mapped hmapped] at h
  nomatch h

/-- The host handles whole what is one bus operation. -/
theorem oneAccess_eq (s : State) (sp : Space) (a : Nat) (w : Width) :
    oneAccess s sp a w = handledWhole s.cfg s.inputs sp a w := by
  unfold oneAccess handledWhole
  congr 1
  cases w <;> simp [widthBytes, nothingDecodes, List.range_succ]

theorem oneAccess_w8 (s : State) (sp : Space) (a : Nat) : oneAccess s sp a .w8 = true := by
  rw [oneAccess_eq, handledWhole_w8]

/-- The first operation of a split access is one access. -/
theorem oneAccess_firstWidth (s : State) (sp : Space) (a : Nat) (w : Width) :
    oneAccess s sp a (firstWidth s sp a w) = true := by
  unfold firstWidth
  split
  next h => exact h.2
  next => exact oneAccess_w8 s sp a

/-! ### The parts of a split access (R86, R95) -/

theorem splitOf_eq {s : State} {sp : Space} {a : Nat} {w : Width} (h : oneAccess s sp a w = false) :
    splitOf s.cfg s.inputs sp a w = (0, firstWidth s sp a w) :: restLanes s sp a w := by
  rw [oneAccess_eq] at h
  cases w with
  | w8 => rw [handledWhole_w8] at h; nomatch h
  | w16 => simp [splitOf, split16, firstWidth, restLanes, h]
  | w32 =>
    simp only [splitOf, split16, firstWidth, restLanes, h, oneAccess_eq, Nat.add_zero]
    by_cases hlow : handledWhole s.cfg s.inputs sp a .w16 = true <;>
      by_cases hhigh : handledWhole s.cfg s.inputs sp (a + 2) .w16 = true <;> simp [hlow, hhigh]

theorem restLanes_ne_nil {s : State} {sp : Space} {a : Nat} {w : Width} (h : oneAccess s sp a w = false) :
    restLanes s sp a w ≠ [] := by
  cases w with
  | w8 => rw [oneAccess_w8] at h; nomatch h
  | w16 => exact List.cons_ne_nil _ _
  | w32 =>
    simp only [restLanes]
    split <;> split <;> simp

/-- The parts that wait are marked by where they end. -/
theorem partsFrom_restLanes (s : State) (sp : Space) (a : Nat) (act : BusAction) :
    partsFrom sp a act (restLanes s sp a act.width) = partsOf sp a act (restLanes s sp a act.width) := by
  generalize hw : act.width = w
  cases w with
  | w8 => rfl
  | w16 => simp [restLanes, partsFrom, partsOf, hw, widthBytes]
  | w32 =>
    simp only [restLanes]
    split <;> split <;> simp [partsFrom, partsOf, hw, widthBytes]

/-- The first part of a split access. -/
def firstPart (s : State) (sp : Space) (a : Nat) (act : BusAction) : Part :=
  ⟨sp, a, partAction act 0 (firstWidth s sp a act.width), 0, act.width, false, none⟩

/-- Whether the first part of a split access is held. -/
theorem firstPart_held (s : State) (sp : Space) (a : Nat) (act : BusAction) :
    s.held (firstPart s sp a act) =
      s.fifo.blocks (s.routeOf (resolve s.cfg s.inputs sp a (firstWidth s sp a act.width))
        (partAction act 0 (firstWidth s sp a act.width))) := by
  cases act <;> rfl

/-- The parts of a split access that wait. -/
def waitingParts (s : State) (sp : Space) (a : Nat) (act : BusAction) : List Part :=
  partsOf sp a act (restLanes s sp a act.width)

/-- A split access performs its first part, and the others wait (R95). -/
theorem hostAccess_split {s : State} {sp : Space} {a : Nat} {act : BusAction} (hnamed : named s sp a)
    (hone : oneAccess s sp a act.width = false) :
    hostAccess sp a act s = runPart (firstPart s sp a act) (pushParts (waitingParts s sp a act) s) := by
  obtain ⟨hreach, halias⟩ := hnamed
  have hrest : (restLanes s sp a act.width).isEmpty = false := by
    rw [List.isEmpty_eq_false_iff]
    exact restLanes_ne_nil hone
  have hparts : accessParts s sp a act = firstPart s sp a act :: waitingParts s sp a act := by
    simp only [accessParts, splitOf_eq hone, partsFrom, hrest, partsFrom_restLanes, Nat.add_zero]
    rfl
  simp only [hostAccess, hreach, if_true, aliased_of_none _ _ _ halias, hparts]

/-- An access that is one bus operation is its one part. -/
theorem hostAccess_one {s : State} {sp : Space} {a : Nat} {act : BusAction} (hnamed : named s sp a)
    (hone : oneAccess s sp a act.width = true) : hostAccess sp a act s = runPart (wholePart sp a act) s := by
  obtain ⟨hreach, halias⟩ := hnamed
  exact hostAccess_whole sp a act s hreach (aliased_of_none _ _ _ halias) (by rw [← oneAccess_eq, hone])

/-! ### A part that is performed (R150, R170) -/

theorem writePart_eq (p : Part) (d : Decision) (w : Width) (v : Word) (s : State) :
    writePart p d w v s = if d.route = .queued then .next (pushEntry (entryOf p.space p.addr w v d.target) s)
      else dispatch d.target w v s := by
  unfold writePart
  split
  next h => rw [if_pos h]
  next h => rw [if_neg (by rw [h]; decide)]
  next h => rw [if_neg (by rw [h]; decide)]

/-- What is decided of a part that makes an access of its own width for the first time. -/
theorem decisionOf_undecided {s : State} {p : Part} (h : p.decided = none) : s.decisionOf p = s.decideNow p := by
  rw [State.decisionOf, h]
  rfl

/-- A write's first part is performed as the write of its bytes alone, which waits for nothing more (R86). -/
theorem hostAccess_splitWrite {s : State} {sp : Space} {a : Nat} {w : Width} {v : Word} (hnamed : named s sp a)
    (hone : oneAccess s sp a w = false) (hheld : s.held (firstPart s sp a (.write w v)) = false) :
    hostAccess sp a (.write w v) s =
      hostAccess sp a (.write (firstWidth s sp a w) (v &&& widthMask (firstWidth s sp a w)))
        (pushParts (waitingParts s sp a (.write w v)) s) := by
  let nw := firstWidth s sp a w
  let u := pushParts (waitingParts s sp a (.write w v)) s
  have hwhole : hostAccess sp a (.write nw (v &&& widthMask nw)) u =
      runPart (wholePart sp a (.write nw (v &&& widthMask nw))) u :=
    hostAccess_one (s := u) hnamed (oneAccess_firstWidth s sp a w)
  have hact : (firstPart s sp a (.write w v)).act = .write nw (v &&& widthMask nw) :=
    partAction_write nw v
  have hact' : (wholePart sp a (.write nw (v &&& widthMask nw))).act = .write nw (v &&& widthMask nw) :=
    congrArg (BusAction.write nw) (by simp [BusAction.width, BitVec.and_assoc])
  have hdecision : u.decisionOf (wholePart sp a (.write nw (v &&& widthMask nw))) =
      u.decisionOf (firstPart s sp a (.write w v)) := rfl
  have hheld' : u.held (wholePart sp a (.write nw (v &&& widthMask nw))) = false := hheld
  rw [hostAccess_split (act := .write w v) hnamed hone, hwhole, runPart_write _ u nw _ hact hheld,
    runPart_write _ u nw _ hact' hheld', hdecision]
  rfl

/-- Nothing of the streams engine lies beside what is open bus (R92). -/
theorem resolve_streams_iff {cfg : Config} {inp : Inputs} {sp : Space} {a : Nat} {w w' : Width}
    (h : resolve cfg inp sp a w = .streams) : resolve cfg inp sp a w' = .streams := by
  have hport (w : Width) : resolvePort cfg.cap a w ≠ .streams := by
    unfold resolvePort pixTarget regTarget
    split
    · split <;> nofun
    · split
      · nofun
      · split
        · nofun
        · split <;> nofun
  have hwindow (on : Bool) (w : Width) : resolveWindow cfg on a w ≠ .streams := by
    unfold resolveWindow
    split
    · nofun
    · split
      · nofun
      · exact hport w
  cases sp with
  | io => exact absurd h (hport w)
  | legacyMmio =>
    simp only [resolve] at h
    split at h
    · exact absurd h (hwindow _ w)
    · nomatch h
  | newMmio =>
    simp only [resolve] at h ⊢
    split at h
    · exact absurd h (hwindow _ w)
    · split at h
      · nomatch h
      · split at h
        next h1 h2 h3 => rw [if_neg h1, if_neg h2, if_pos h3]
        next => nomatch h

theorem ne_streams_of_not_oneAccess {s : State} {sp : Space} {a : Nat} {w : Width} (h : oneAccess s sp a w = false)
    (w' : Width) : resolve s.cfg s.inputs sp a w' ≠ .streams := fun hstreams => by
  have hopen := unmapped_of_not_oneAccess h
  rw [resolve_streams_iff hstreams] at hopen
  nomatch hopen

/-- A read of what is not the streams engine's adds its value, and returns with the last part (R170). -/
theorem readAccess_eq {p : Part} {t : Target} (w : Width) (s : State) (h : t ≠ .streams) :
    readAccess p t w s =
      if p.last then .next (returnRead p.whole (gather p (readValue t w s).1 s.host.acc) (readValue t w s).2)
      else .next { (readValue t w s).2 with host := { s.host with
        acc := gather p (readValue t w s).1 s.host.acc } } := by
  have hhost : (readValue t w s).2.host = s.host := (sameContext_readValue t w s).2.2.2
  cases t with
  | streams => exact absurd rfl h
  | _ => simp only [readAccess, hhost]

theorem readPixByte_pushParts (ps : List Part) (lane : Nat) (s : State) :
    readPixByte lane (pushParts ps s) = ((readPixByte lane s).1, pushParts ps (readPixByte lane s).2) := by
  have hfetch : readBackFetch (pushParts ps s) = pushParts ps (readBackFetch s) := rfl
  have hfill : readBackFill (pushParts ps s) = pushParts ps (readBackFill s) := by
    unfold readBackFill
    rw [hfetch]
    exact (apply_ite (pushParts ps) _ _ _).symm
  have hread : (pushParts ps s).readingBack = s.readingBack := rfl
  unfold readPixByte
  rw [hread]
  split
  · simp only [readBackByte, hfill]
    rw [apply_ite (pushParts ps)]
    rfl
  · rfl

theorem readPix_pushParts (ps : List Part) (lane k n : Nat) (s : State) :
    readPix lane k n (pushParts ps s) = ((readPix lane k n s).1, pushParts ps (readPix lane k n s).2) := by
  induction n generalizing k s with
  | zero => rfl
  | succ n ih => simp only [readPix, readPixByte_pushParts, ih]

/-- A read does not depend on the parts that wait behind it. -/
theorem readValue_pushParts (ps : List Part) (t : Target) (w : Width) (s : State) :
    readValue t w (pushParts ps s) = ((readValue t w s).1, pushParts ps (readValue t w s).2) := by
  cases t with
  | reg r part => cases r <;> cases part <;> rfl
  | pix lane => exact readPix_pushParts ps lane 0 _ s
  | _ => rfl

/-- A read's first part keeps its value, and the others wait (R86, R170). -/
theorem hostAccess_splitRead {s : State} {sp : Space} {a : Nat} {w : Width} (hnamed : named s sp a)
    (hone : oneAccess s sp a w = false) (hheld : s.held (firstPart s sp a (.read w)) = false) :
    hostAccess sp a (.read w) s =
      let z := readValue (resolve s.cfg s.inputs sp a (firstWidth s sp a w)) (firstWidth s sp a w) s
      .next { z.2 with host := { s.host with
        acc := z.1, pending := waitingParts s sp a (.read w) ++ s.host.pending } } := by
  rw [hostAccess_split (act := .read w) hnamed hone,
    runPart_read _ (pushParts (waitingParts s sp a (.read w)) s) (firstWidth s sp a w) rfl hheld]
  have htarget : ((pushParts (waitingParts s sp a (.read w)) s).decisionOf (firstPart s sp a (.read w))).target =
      resolve s.cfg s.inputs sp a (firstWidth s sp a w) := rfl
  rw [htarget, readAccess_eq _ _ (ne_streams_of_not_oneAccess hone _), readValue_pushParts]
  rfl

/-- The same read of the first part's bytes alone returns their value. -/
theorem hostAccess_firstRead {s : State} {sp : Space} {a : Nat} {w : Width} (hnamed : named s sp a)
    (hone : oneAccess s sp a w = false) (hheld : s.held (firstPart s sp a (.read w)) = false) :
    hostAccess sp a (.read (firstWidth s sp a w)) s =
      let z := readValue (resolve s.cfg s.inputs sp a (firstWidth s sp a w)) (firstWidth s sp a w) s
      .next (returnRead (firstWidth s sp a w) z.1 z.2) := by
  let nw := firstWidth s sp a w
  have hheld' : s.held (wholePart sp a (.read nw)) = false := hheld
  have htarget : (s.decisionOf (wholePart sp a (.read nw))).target = resolve s.cfg s.inputs sp a nw := rfl
  rw [hostAccess_one (act := .read nw) hnamed (oneAccess_firstWidth s sp a w), runPart_read _ s nw rfl hheld', htarget,
    readAccess_eq _ _ (ne_streams_of_not_oneAccess hone nw)]
  rfl

/-! ### The ports beside a register (R110) -/

/-- What is mapped at a port of a register's neighbourhood, in every space that mirrors it. -/
theorem resolve_port {s : State} {sp : Space} {a : Nat} {w : Width} (hlo : sp ≠ .io → 0x8000 ≤ a ∧ a < 0x10000)
    (hpacked : w = .w32 → noPacked s sp a) : resolve s.cfg s.inputs sp a w = resolvePort s.cfg.cap a w := by
  cases sp with
  | io => rfl
  | legacyMmio =>
    obtain ⟨hlo, hhi⟩ := hlo nofun
    exact resolve_mirror s .legacy a w hlo hhi hpacked
  | newMmio =>
    obtain ⟨hlo, hhi⟩ := hlo nofun
    exact resolve_mirror s .linear a w hlo hhi hpacked

/-- The registers with a second-point register in the next two ports. -/
def followed (r : PortReg) : Option PortReg :=
  match r with
  | .curY => some .curY2
  | .curX => some .curX2
  | .destyAxstp => some .desty2
  | .destxDiastp => some .destx2
  | _ => none

theorem followed_some {r q : PortReg} (h : followed r = some q) :
    isSecondPoint q = true ∧ portOf r + 2 = portAddr q false ∧ portOf r + 3 = portAddr q true := by
  cases r <;> cases h <;> decide

theorem followed_none {r : PortReg} (h : followed r = none) :
    isPort (portOf r + 2) = false ∧ isPort (portOf r + 3) = false := by
  cases r with
  | curY => nomatch h
  | curX => nomatch h
  | destyAxstp => nomatch h
  | destxDiastp => nomatch h
  | _ => decide

theorem isPort_four (r : PortReg) : isPort (portOf r + 4) = false := by
  cases r <;> decide

theorem portOf_lt (r : PortReg) : portOf r + 5 < 0x10000 := by cases r <;> decide

/-- A second-point register of the chip stands after the register. -/
def hasNext (s : State) (r : PortReg) : Bool := hasSecondPoint s.cfg.cap && (followed r).isSome

theorem hasNext_iff (s : State) (r : PortReg) : hasNext s r = true ↔
    hasSecondPoint s.cfg.cap = true ∧ (r = .curY ∨ r = .curX ∨ r = .destyAxstp ∨ r = .destxDiastp) := by
  unfold hasNext
  cases r <;> simp [followed]

/-- The ports after a register map the second-point register there, or nothing (R112). -/
theorem nextPorts_of_hasNext {s : State} {r : PortReg} (h : hasNext s r = true) :
    ∃ q, ∀ w, resolvePort s.cfg.cap (portOf r + 2) w = regTarget q false w ∧
      resolvePort s.cfg.cap (portOf r + 3) w = regTarget q true w := by
  obtain ⟨hcap, hsome⟩ := Bool.and_eq_true_iff.mp h
  obtain ⟨q, hq⟩ := Option.isSome_iff_exists.mp hsome
  obtain ⟨-, hlow, hhigh⟩ := followed_some hq
  refine ⟨q, fun w => ?_⟩
  rw [hlow, hhigh]
  exact ⟨resolvePort_portAddr _ q false w fun _ => hcap, resolvePort_portAddr _ q true w fun _ => hcap⟩

theorem nextPorts_of_not_hasNext {s : State} {r : PortReg} (h : hasNext s r = false) (w : Width) :
    resolvePort s.cfg.cap (portOf r + 2) w = .unmapped ∧ resolvePort s.cfg.cap (portOf r + 3) w = .unmapped := by
  cases hf : followed r with
  | none =>
    obtain ⟨h2, h3⟩ := followed_none hf
    exact ⟨resolvePort_of_not_isPort _ _ w h2, resolvePort_of_not_isPort _ _ w h3⟩
  | some q =>
    obtain ⟨hsecond, hlow, hhigh⟩ := followed_some hf
    have hcap : hasSecondPoint s.cfg.cap = false := by
      rwa [hasNext, hf, Option.isSome_some, Bool.and_true] at h
    rw [hlow, hhigh]
    exact ⟨resolvePort_absent _ q false w hsecond hcap, resolvePort_absent _ q true w hsecond hcap⟩

section
variable {s : State} {sp : Space} {r : PortReg} (hpresent : present s r) (hlo : sp ≠ .io → 0x8000 ≤ portOf r)
include hpresent hlo

/-- An access at a byte of the register reaches it (R110). -/
theorem resolve_own (odd : Bool) (w : Width) (hw : w = .w32 → noPacked s sp (portAddr r odd)) :
    resolve s.cfg s.inputs sp (portAddr r odd) w = regTarget r odd w := by
  have hlt := portOf_lt r
  have hle : portAddr r odd ≤ portOf r + 1 := Nat.add_le_add_left (Bool.toNat_le odd) _
  rw [resolve_port (a := portAddr r odd) (fun hsp => ⟨(hlo hsp).trans (Nat.le_add_right _ _), by omega⟩) hw]
  exact resolvePort_portAddr _ r odd w hpresent

theorem own_mapped (odd : Bool) : resolve s.cfg s.inputs sp (portAddr r odd + 0) .w8 ≠ .unmapped := by
  rw [Nat.add_zero, resolve_own hpresent hlo odd .w8 nofun]
  cases odd <;> nofun

omit hpresent in
theorem resolve_after {k : Nat} (hk : k < 5) {w : Width} (hw : w ≠ .w32) :
    resolve s.cfg s.inputs sp (portOf r + k) w = resolvePort s.cfg.cap (portOf r + k) w := by
  have hlt := portOf_lt r
  exact resolve_port (fun hsp => ⟨Nat.le_add_right_of_le (hlo hsp), by omega⟩) fun h => absurd h hw

omit hpresent in
/-- The 16 bits after a register are one access: a second-point register, or nothing. -/
theorem oneAccess_next : oneAccess s sp (portOf r + 2) .w16 = true := by
  cases hnext : hasNext s r with
  | true =>
    obtain ⟨q, hq⟩ := nextPorts_of_hasNext hnext
    apply oneAccess_of_mapped
    rw [resolve_after hlo (by decide) (by decide), (hq .w16).1]
    nofun
  | false =>
    obtain ⟨h2, h3⟩ := nextPorts_of_not_hasNext hnext .w8
    apply oneAccess_of_silent
    intro k hk
    rcases Nat.lt_succ_iff_lt_or_eq.mp hk with hk | rfl
    · obtain rfl : k = 0 := by omega
      exact (resolve_after hlo (by decide) (by decide)).trans h2
    · exact (resolve_after hlo (k := 3) (by decide) (by decide)).trans h3

omit hpresent in
/-- The 16 bits from the third byte on are one access, unless a second-point register's high byte stands first. -/
theorem oneAccess_nextHigh : oneAccess s sp (portOf r + 3) .w16 = !hasNext s r := by
  cases hnext : hasNext s r with
  | true =>
    obtain ⟨q, hq⟩ := nextPorts_of_hasNext hnext
    refine not_oneAccess 0 ?_ (by decide) ?_
    · exact (resolve_after hlo (by decide) (by decide)).trans (hq .w16).2
    · rw [resolve_after (k := 3) hlo (by decide) (by decide), (hq .w8).2]
      nofun
  | false =>
    obtain ⟨-, h3⟩ := nextPorts_of_not_hasNext hnext .w8
    apply oneAccess_of_silent
    intro k hk
    rcases Nat.lt_succ_iff_lt_or_eq.mp hk with hk | rfl
    · obtain rfl : k = 0 := by omega
      exact (resolve_after hlo (k := 3) (by decide) (by decide)).trans h3
    · exact (resolve_after hlo (k := 4) (by decide) (by decide)).trans (resolvePort_of_not_isPort _ _ _ (isPort_four r))

/-- A 16-bit access at a register's odd byte is two bytes (R86). -/
theorem split_odd16 : oneAccess s sp (portAddr r true) .w16 = false ∧
    firstWidth s sp (portAddr r true) .w16 = .w8 ∧ restLanes s sp (portAddr r true) .w16 = [(1, .w8)] :=
  ⟨not_oneAccess 0 (resolve_own hpresent hlo true .w16 nofun) (by decide) (own_mapped hpresent hlo true), rfl, rfl⟩

/-- A 32-bit access at a register's base is its word and the 16 bits after it (R86). -/
theorem split_even32 (hpacked : noPacked s sp (portAddr r false)) : oneAccess s sp (portAddr r false) .w32 = false ∧
    firstWidth s sp (portAddr r false) .w32 = .w16 ∧ restLanes s sp (portAddr r false) .w32 = [(2, .w16)] := by
  have hword : oneAccess s sp (portAddr r false) .w16 = true := by
    apply oneAccess_of_mapped
    rw [resolve_own hpresent hlo false .w16 nofun]
    nofun
  have hnext : oneAccess s sp (portAddr r false + 2) .w16 = true := oneAccess_next hlo
  exact ⟨not_oneAccess 0 (resolve_own hpresent hlo false .w32 fun _ => hpacked) (by decide)
    (own_mapped hpresent hlo false), by simp [firstWidth, hword], by simp [restLanes, hword, hnext]⟩

/-- A 32-bit access at a register's odd byte is that byte, the byte after it and the next 16 bits (R86). -/
theorem split_odd32 (hpacked : noPacked s sp (portAddr r true)) : oneAccess s sp (portAddr r true) .w32 = false ∧
    firstWidth s sp (portAddr r true) .w32 = .w8 ∧ restLanes s sp (portAddr r true) .w32 = oddLanes s r := by
  obtain ⟨hword, -, -⟩ := split_odd16 hpresent hlo
  have hhigh : oneAccess s sp (portAddr r true + 2) .w16 = !hasNext s r := oneAccess_nextHigh hlo
  refine ⟨not_oneAccess 0 (resolve_own hpresent hlo true .w32 fun _ => hpacked) (by decide)
    (own_mapped hpresent hlo true), by simp [firstWidth, hword], ?_⟩
  simp only [restLanes, oddLanes, hword, hhigh, ← hasNext_iff]
  cases hasNext s r <;> rfl

end

/-! ### What is decided of a part (R102, R190) -/

/-- A write goes into the FIFO where its register is queued and writes are queued (R150, R191). -/
theorem routeOf_queued_iff (s : State) (t : Target) (w : Width) (v : Word) :
    s.routeOf t (.write w v) = .queued ↔ queueable t = true ∧ s.queuing = true := by
  by_cases hnone : t = .unmapped
  · simp [hnone, queueable]
  · by_cases hstreams : t = .streams
    · simp [hstreams, queueable]
    · rw [routeOf_write s t w v hnone hstreams, ← Bool.and_eq_true_iff]
      split <;> simp_all

/-- A read waits for the drain in FIFO mode, where it reaches something (R103, R197). -/
theorem routeOf_read_iff (s : State) (t : Target) (w : Width) :
    (s.routeOf t (.read w) = .drained ↔ s.enableFifo = true ∧ t ≠ .unmapped ∧ t ≠ .streams) ∧
      s.routeOf t (.read w) ≠ .queued := by
  by_cases hnone : t = .unmapped
  · simp [hnone]
  · by_cases hstreams : t = .streams
    · simp [hstreams]
    · rw [routeOf_read s t w hnone hstreams]
      split <;> simp_all

/-- Every register is queued but the two control registers (R110). -/
theorem queueable_reg {r : PortReg} (part : RegPart) (hsubsys : r ≠ .subsys) (hadvfunc : r ≠ .advfunc) :
    queueable (.reg r part) = true := by
  cases r with
  | subsys => exact absurd rfl hsubsys
  | advfunc => exact absurd rfl hadvfunc
  | _ => rfl

theorem full_of_drained {f : Fifo} (h : f.drained = true) : f.full = false := by
  simp only [Fifo.drained, Bool.and_eq_true, decide_eq_true_eq] at h
  rw [Fifo.full, h.1]
  decide

/-- A write waits neither where the FIFO is drained, nor where it is queued with room left (R102, R192). -/
theorem not_blocks_write {s : State} {t : Target} (w : Width) (v : Word)
    (h : s.fifo.drained = true ∨ (queueable t = true ∧ s.queuing = true ∧ s.fifo.full = false)) :
    s.fifo.blocks (s.routeOf t (.write w v)) = false := by
  cases hroute : s.routeOf t (.write w v) with
  | queued =>
    rw [blocks_queued]
    rcases h with h | ⟨-, -, h⟩
    · exact full_of_drained h
    · exact h
  | drained =>
    rcases h with h | ⟨hkind, hqueuing, -⟩
    · rw [blocks_drained, h]
      rfl
    · rw [(routeOf_queued_iff s t w v).mpr ⟨hkind, hqueuing⟩] at hroute
      nomatch hroute
  | atOnce => rfl

/-- A read does not wait outside FIFO mode, nor where the FIFO is drained (R103). -/
theorem not_blocks_read {s : State} (t : Target) (w : Width) (h : readsNow s) :
    s.fifo.blocks (s.routeOf t (.read w)) = false := by
  obtain ⟨hdrained, hqueued⟩ := routeOf_read_iff s t w
  cases hroute : s.routeOf t (.read w) with
  | queued => exact absurd hroute hqueued
  | drained =>
    obtain ⟨hfifo, -⟩ := hdrained.mp hroute
    rcases h with h | h
    · rw [hfifo] at h
      nomatch h
    · rw [blocks_drained, h]
      rfl
  | atOnce => rfl

/-! ### The step of a waiting part (R95) -/

/-- The host goes on with a part that does not wait, whether its turn is chosen or none is (assumption log entry 3). -/
theorem step_part {s : State} {p : Part} {ps : List Part} {ts : List Turn} (hpending : s.host.pending = p :: ps)
    (hsched : s.host.sched = .host :: ts ∨ (s.host.sched = [] ∧ ts = [])) (hwaits : s.waits p = false) :
    step s = runPart p { s with host := { s.host with pending := ps, sched := ts } } := by
  rcases hsched with hsched | ⟨hsched, rfl⟩
  · simp only [step_host hsched, hostStep, withSched_host, hpending, List.isEmpty_cons, Bool.false_eq_true, if_false,
      advancePart]
    rfl
  · have hready : s.hostReady = true := by simp [State.hostReady, hpending, hwaits]
    simp only [step_noTurn hsched, hready, if_true, hostStep, hpending, List.isEmpty_cons, Bool.false_eq_true, if_false,
      advancePart, ← hsched]

theorem not_waits_of_not_held {s : State} {p : Part} (h : s.held p = false) : s.waits p = false := by
  rw [State.waits, h, Bool.and_false]

theorem not_waits_of_undecided {s : State} {p : Part} (h : p.decided = none) : s.waits p = false := by
  rw [State.waits, h]
  rfl

/-! ### The accesses of a register in any space -/

theorem accessOf_regWrite_any (sp : Space) (r : PortReg) (odd : Bool) (w : Width) (v : Word) :
    accessOf (regWrite sp r odd w v) = (sp, portAddr r odd, .write w v) := by
  cases sp with
  | io => exact accessOf_outInstr r odd w v
  | legacyMmio => exact accessOf_regWrite .legacy r odd w v
  | newMmio => exact accessOf_regWrite .linear r odd w v

theorem accessOf_regRead_any (sp : Space) (r : PortReg) (odd : Bool) (w : Width) :
    accessOf (regRead sp r odd w) = (sp, portAddr r odd, .read w) := by
  cases sp with
  | io => exact accessOf_inInstr r odd w
  | legacyMmio => exact accessOf_regRead .legacy r odd w
  | newMmio => exact accessOf_regRead .linear r odd w

theorem exec_of_accessOf {i : Instr} {sp : Space} {a : Nat} {act : BusAction} (h : accessOf i = (sp, a, act))
    (s : State) : exec i s = hostAccess sp a act s := by
  rw [exec_access, h]

/-! ### The pixel-transfer port beside its base (R86, R112) -/

/-- Wide accesses beside the port's base are bytes, and what lies past the port is open bus. -/
theorem split_pix (s : State) {lane : BitVec 2} (hlane : lane ≠ 0) {act : BusAction} (hw : act.width ≠ .w8) :
    oneAccess s .io (pixPortLo + lane.toNat) act.width = false ∧
      firstWidth s .io (pixPortLo + lane.toNat) act.width = .w8 ∧
      waitingParts s .io (pixPortLo + lane.toNat) act = pixTail lane.toNat act := by
  have hlanes : ∀ l : BitVec 2, l ≠ 0 → l = 1 ∨ l = 2 ∨ l = 3 := by decide
  have hwide (w : Width) (hw : w ≠ .w8) : resolve s.cfg s.inputs .io (pixPortLo + lane.toNat) w = .unmapped := by
    cases w with
    | w8 => exact absurd rfl hw
    | _ => rcases hlanes lane hlane with rfl | rfl | rfl <;> rfl
  have hbyte : resolve s.cfg s.inputs .io (pixPortLo + lane.toNat + 0) .w8 ≠ .unmapped := by
    rcases hlanes lane hlane with rfl | rfl | rfl <;> nofun
  have hone (w : Width) (hw : w ≠ .w8) : oneAccess s .io (pixPortLo + lane.toNat) w = false :=
    not_oneAccess 0 (hwide w hw) (widthBytes_pos w) hbyte
  have hhalf := hone .w16 nofun
  refine ⟨hone _ hw, ?_, ?_⟩
  · unfold firstWidth
    rw [hhalf]
    exact if_neg fun h => nomatch h.2
  · unfold waitingParts
    cases hact : act.width with
    | w8 => exact absurd hact hw
    | w16 => simp [restLanes, partsOf, pixTail, hact, widthBytes]
    | w32 =>
      have hlast : oneAccess s .io (pixPortLo + lane.toNat + 2) .w16 = decide (lane ≠ 1) := by
        rcases hlanes lane hlane with rfl | rfl | rfl <;> rfl
      have hrest : restLanes s .io (pixPortLo + lane.toNat) .w32 =
          if lane.toNat = 1 then [(1, .w8), (2, .w8), (3, .w8)] else [(1, .w8), (2, .w16)] := by
        simp only [restLanes, hhalf, hlast]
        rcases hlanes lane hlane with rfl | rfl | rfl <;> rfl
      rw [hrest, pixTail]
      split <;> simp [partsOf, hact, widthBytes]

/-- A wide read beside the port's base keeps its first byte, and its other parts wait (R86, R175). -/
theorem exec_inPixTrans_split {s : State} {lane : BitVec 2} {w : Width} (hnamed : named s .io (pixPortLo + lane.toNat))
    (hnow : readsNow s) (hlane : lane ≠ 0) (hw : w ≠ .w8) :
    exec (.inPixTrans lane w) s = .next { (readPixByte lane.toNat s).2 with host := { s.host with
      acc := (readPixByte lane.toNat s).1.setWidth 32
      pending := pixTail lane.toNat (.read w) ++ s.host.pending } } := by
  obtain ⟨hone, hfirst, hrest⟩ := split_pix s hlane (act := .read w) hw
  simp only [BusAction.width] at hone hfirst
  have hheld : s.held (firstPart s .io (pixPortLo + lane.toNat) (.read w)) = false := by
    rw [firstPart_held]
    exact not_blocks_read _ _ hnow
  have hsplit := hostAccess_splitRead hnamed hone hheld
  have hvalue : readValue (.pix lane.toNat) .w8 s =
      ((readPixByte lane.toNat s).1.setWidth 32, (readPixByte lane.toNat s).2) := by
    simp [readValue, readPix, widthBytes]
  rw [hfirst, resolve_pixPort _ _ (.inl rfl), hvalue, hrest] at hsplit
  exact hsplit

end Sys2Proof.Machine

namespace Sys2Proof
open Sys2Proof.Machine

/-- Settles O31: the register accesses are cases of the general split, and the step of a waiting part is `runPart`. -/
theorem splitWrites : Obligations.SplitWrites := by
  unfold Obligations.SplitWrites
  intro s sp
  refine ⟨?register, ?access, ?part⟩
  case register =>
    intro r v split hpresent hlo hfree
    have hmatch {odd : Bool} {w nw : Width} {part : RegPart} {rest : List (Nat × Width)}
        (hsplit : oneAccess s sp (portAddr r odd) w = false ∧ firstWidth s sp (portAddr r odd) w = nw ∧
          restLanes s sp (portAddr r odd) w = rest)
        (htarget : resolve s.cfg s.inputs sp (portAddr r odd) nw = .reg r part)
        (hnamed : named s sp (portAddr r odd)) : split odd w nw (v &&& widthMask nw) rest := by
      obtain ⟨hone, hfirst, hrest⟩ := hsplit
      have hheld : s.held (firstPart s sp (portAddr r odd) (.write w v)) = false := by
        rw [firstPart_held, BusAction.width, hfirst, htarget]
        refine not_blocks_write _ _ (hfree.imp id fun h => ?_)
        obtain ⟨hqueuing, hsubsys, hadvfunc, hroom⟩ := h
        exact ⟨queueable_reg part hsubsys hadvfunc, hqueuing, decide_eq_false (Nat.not_le.mpr hroom)⟩
      show exec (regWrite sp r odd w v) s = _
      rw [exec_of_accessOf (accessOf_regWrite_any sp r odd w v), exec_of_accessOf (accessOf_regWrite_any sp r odd nw _),
        hostAccess_splitWrite hnamed hone hheld, hfirst, waitingParts, BusAction.width, hrest]
    refine ⟨fun hnamed => ?odd16, fun hnamed hpacked => ?even32, fun hnamed hpacked => ?odd32⟩
    case odd16 =>
      exact hmatch (split_odd16 hpresent hlo) (resolve_own hpresent hlo true .w8 nofun) hnamed
    case even32 =>
      exact hmatch (split_even32 hpresent hlo hpacked) (resolve_own hpresent hlo false .w16 nofun) hnamed
    case odd32 =>
      exact hmatch (split_odd32 hpresent hlo hpacked) (resolve_own hpresent hlo true .w8 nofun) hnamed
  case access =>
    intro i j a w v hi hnamed hone nw p rest
    have hp : p = firstPart s sp a (.write w v) :=
      congrArg (fun act => Machine.Part.mk sp a act 0 w false none) (partAction_write nw v).symm
    constructor
    · intro hheld
      rw [exec_of_accessOf hi, hostAccess_split (act := .write w v) hnamed hone, ← hp,
        runPart_held _ (pushParts (waitingParts s sp a (.write w v)) s) hheld]
      rfl
    · intro hheld hj
      rw [exec_of_accessOf hi, exec_of_accessOf hj, hostAccess_splitWrite hnamed hone (hp ▸ hheld)]
      rfl
  case part =>
    intro p ps w v ts hpending hsched hact u d
    refine ⟨fun hnew => ?decided, fun hheld => ?performed, fun hnew hheld => ?waits⟩
    case decided =>
      have hd : d = s.decideNow p := decisionOf_undecided hnew
      rw [hd, State.decideNow, hact]
      exact ⟨rfl, routeOf_queued_iff s _ w v⟩
    case performed =>
      rw [step_part hpending hsched (not_waits_of_not_held hheld), runPart_write p u w v hact hheld, writePart_eq]
      rfl
    case waits =>
      rw [step_part hpending hsched (not_waits_of_undecided hnew), runPart_held p u hheld]
      rfl

/-- Settles O32: a read's first part keeps its value, and each later one adds its own; the parts are those of the
general split. -/
theorem splitReads : Obligations.SplitReads := by
  unfold Obligations.SplitReads
  intro s
  refine ⟨?register, ?part, ?pix, ?access⟩
  case register =>
    intro sp r split hpresent hlo hnow
    have hmatch {odd : Bool} {w nw : Width} {part : RegPart} {rest : List (Nat × Width)}
        (hsplit : oneAccess s sp (portAddr r odd) w = false ∧ firstWidth s sp (portAddr r odd) w = nw ∧
          restLanes s sp (portAddr r odd) w = rest)
        (htarget : resolve s.cfg s.inputs sp (portAddr r odd) nw = .reg r part)
        (hnamed : named s sp (portAddr r odd)) : split odd w nw part rest := by
      obtain ⟨hone, hfirst, hrest⟩ := hsplit
      have hheld : s.held (firstPart s sp (portAddr r odd) (.read w)) = false := by
        rw [firstPart_held]
        exact not_blocks_read _ _ hnow
      have hfirstRead := hostAccess_firstRead hnamed hone hheld
      have hsplitRead := hostAccess_splitRead hnamed hone hheld
      rw [hfirst, htarget] at hfirstRead hsplitRead
      rw [waitingParts, BusAction.width, hrest] at hsplitRead
      exact ⟨(exec_of_accessOf (accessOf_regRead_any sp r odd nw) s).trans hfirstRead,
        (exec_of_accessOf (accessOf_regRead_any sp r odd w) s).trans hsplitRead⟩
    refine ⟨fun hnamed => ?odd16, fun hnamed hpacked => ?even32, fun hnamed hpacked => ?odd32⟩
    case odd16 =>
      exact hmatch (split_odd16 hpresent hlo) (resolve_own hpresent hlo true .w8 nofun) hnamed
    case even32 =>
      exact hmatch (split_even32 hpresent hlo hpacked) (resolve_own hpresent hlo false .w16 nofun) hnamed
    case odd32 =>
      exact hmatch (split_odd32 hpresent hlo hpacked) (resolve_own hpresent hlo true .w8 nofun) hnamed
  case part =>
    intro p ps w ts hpending hsched hact u d z v
    have hperformed (hheld : s.held p = false) : step s = readAccess p d.target w u := by
      rw [step_part hpending hsched (not_waits_of_not_held hheld), runPart_read p u w hact hheld]
      rfl
    refine ⟨fun hnew => ?decided, fun hheld hstreams => ?refused, fun hheld hother hlast => ?returned,
      fun hheld hother hlast => ?gathered, fun hnew hheld => ?waits⟩
    case decided =>
      have hd : d = s.decideNow p := decisionOf_undecided hnew
      rw [hd, State.decideNow, hact]
      exact ⟨rfl, routeOf_read_iff s _ w⟩
    case refused => rw [hperformed hheld, hstreams]; rfl
    case returned => rw [hperformed hheld, readAccess_eq w u hother, if_pos hlast]; rfl
    case gathered => rw [hperformed hheld, readAccess_eq w u hother, if_neg (by rw [hlast]; decide)]; rfl
    case waits =>
      rw [step_part hpending hsched (not_waits_of_undecided hnew), runPart_held p u hheld]
      rfl
  case pix =>
    intro lane w hnamed hnow hlane hw
    exact ⟨_, _, (sameContext_readPixByte lane.toNat s).2.2.2, exec_inPixTrans_byte hnamed hnow,
      exec_inPixTrans_split hnamed hnow hlane hw⟩
  case access =>
    intro i j sp a w hi hnamed hone nw p rest
    have hp : p = firstPart s sp a (.read w) := rfl
    constructor
    · intro hheld
      rw [exec_of_accessOf hi, hostAccess_split (act := .read w) hnamed hone, ← hp,
        runPart_held _ (pushParts (waitingParts s sp a (.read w)) s) hheld]
      rfl
    · intro hheld hj
      exact ⟨_, _, (sameContext_readValue _ _ s).2.2.2,
        (exec_of_accessOf hj s).trans (hostAccess_firstRead hnamed hone (hp ▸ hheld)),
        (exec_of_accessOf hi s).trans (hostAccess_splitRead hnamed hone (hp ▸ hheld))⟩

end Sys2Proof
end

section
/-!
PROOFS. The FIFO as a queue, what goes into it, and the host that waits for it (spec/41_fifo.md R191 to R201;
spec/20_memory.md R101 to R103).
-/
namespace Sys2Proof.Machine

/-! ### The ring is a queue (R196, R200) -/

/-- A counter value, counted from the next one. -/
theorem counter_succ (i : Word) (n : Nat) : i + 1 + BitVec.ofNat 32 n = i + BitVec.ofNat 32 (n + 1) := by
  rw [BitVec.ofNat_add, BitVec.add_assoc, BitVec.add_comm 1]
  rfl

/-- A slot that no entry of the queue holds may be written. -/
theorem queueFrom_writeSlot (ring : List (Nat × FifoEntry)) (a : Nat) (e : FifoEntry) (n : Nat) (i : Word)
    (h : ∀ k < n, slotOf (i + BitVec.ofNat 32 k) ≠ a) :
    queueFrom (writeSlot ring a e) i n = queueFrom ring i n := by
  induction n generalizing i with
  | zero => rfl
  | succ n ih =>
    have hhead : slotOf i ≠ a := by simpa using h 0 (Nat.succ_pos n)
    have hrest : ∀ k < n, slotOf (i + 1 + BitVec.ofNat 32 k) ≠ a := fun k hk => by
      rw [counter_succ]
      exact h (k + 1) (Nat.succ_lt_succ hk)
    rw [queueFrom, queueFrom, readSlot_writeSlot_other a _ e hhead, ih (i + 1) hrest]

/-- The last entry of a longer queue. -/
theorem queueFrom_succ (ring : List (Nat × FifoEntry)) (n : Nat) (i : Word) :
    queueFrom ring i (n + 1) = queueFrom ring i n ++ [readSlot ring (slotOf (i + BitVec.ofNat 32 n))] := by
  induction n generalizing i with
  | zero => simp [queueFrom]
  | succ n ih =>
    rw [queueFrom, ih, counter_succ]
    rfl

/-- The counter of the next entry, `entries` after the head's (R193). -/
theorem readIdx_add_entries (f : Fifo) : f.readIdx + BitVec.ofNat 32 f.entries = f.writeIdx := by
  rw [Fifo.entries, BitVec.ofNat_toNat, BitVec.setWidth_eq, BitVec.add_comm, BitVec.sub_add_cancel]

/-- The next slot holds no entry of a queue smaller than the ring (R193). -/
theorem slotOf_ne_writeIdx {f : Fifo} (hroom : f.entries < 65536) {k : Nat} (hk : k < f.entries) :
    slotOf (f.readIdx + BitVec.ofNat 32 k) ≠ slotOf f.writeIdx := by
  rw [← readIdx_add_entries f]
  generalize f.entries = n at *
  have hread := f.readIdx.isLt
  simp only [slotOf, Config.fifoSize, BitVec.toNat_add, BitVec.toNat_ofNat]
  omega

theorem queue_push {f : Fifo} (e : FifoEntry) (hroom : f.entries < 65536) : (f.push e).queue = f.queue ++ [e] := by
  have hentries := entries_push e hroom
  have hlast : slotOf ((f.push e).readIdx + BitVec.ofNat 32 f.entries) = slotOf f.writeIdx :=
    congrArg slotOf (readIdx_add_entries f)
  rw [Fifo.queue, hentries, queueFrom_succ, hlast]
  show queueFrom (writeSlot f.ring (slotOf f.writeIdx) e) f.readIdx f.entries ++
    [readSlot (writeSlot f.ring (slotOf f.writeIdx) e) (slotOf f.writeIdx)] = _
  rw [readSlot_writeSlot_same, queueFrom_writeSlot _ _ _ _ _ fun k hk => slotOf_ne_writeIdx hroom hk]
  rfl

theorem queue_pop {f : Fifo} (h : 0 < f.entries) :
    f.queue = f.head :: ({ f with readIdx := f.readIdx + 1 } : Fifo).queue := by
  rw [Fifo.queue, ← entries_pop h]
  rfl

/-! ### The entry of a write (R145, R192) -/

/-- Writes of queued registers are queued in FIFO mode with the 8514 enable bit set (R190, R191). -/
theorem queuing_of {s : State} (hcap : s.cfg.cap.fifoCapable = true)
    (hmode : s.cfg.cap.fifoAlwaysOn = true ∨ s.inputs.fifoMode = true) (henable : s.regs.advfunc.getLsbD 0 = true) :
    s.queuing = true := by
  rw [State.queuing, State.enableFifo, hcap, henable]
  simpa using hmode

theorem ne_unmapped_of_queueable {t : Target} (h : queueable t = true) : t ≠ .unmapped := by
  rintro rfl
  nomatch h

/-- The tag names the width and whether the write came through a window (R145). -/
theorem tagForm_typeTag (sp : Space) (w : Width) : tagForm (typeTag sp w) = some (decide (sp ≠ .io), w) := by
  cases sp <;> cases w <;> rfl

theorem entryOf_fields (sp : Space) (a : Nat) (w : Width) (v : Word) (t : Target) (h : a < 0x10000) :
    (entryOf sp a w v t).addrType.extractLsb' 24 8 = typeTag sp w ∧
      ((entryOf sp a w v t).addrType.extractLsb' 0 24).toNat = a := by
  constructor
  · apply BitVec.eq_of_getLsbD_eq
    intro i hi
    simp only [entryOf, BitVec.getLsbD_extractLsb', BitVec.getLsbD_append]
    simp [hi]
  · have hlow : (entryOf sp a w v t).addrType.extractLsb' 0 24 = BitVec.ofNat 24 a := by
      apply BitVec.eq_of_getLsbD_eq
      intro i hi
      simp only [entryOf, BitVec.getLsbD_extractLsb', BitVec.getLsbD_append]
      simp [hi]
    rw [hlow, BitVec.toNat_ofNat]
    omega

theorem not_isPacked_resolvePort (cap : Cap) (a : Nat) (w : Width) : isPacked (resolvePort cap a w) = false := by
  unfold resolvePort pixTarget regTarget
  split
  · split <;> rfl
  · split
    · rfl
    · split
      · rfl
      · split <;> rfl

/-- What the entry says of a packed write decides as the window did when the write was queued (R402). -/
theorem resolveWindow_isPacked (cfg : Config) (on : Bool) (a : Nat) (w : Width) :
    resolveWindow cfg (isPacked (resolveWindow cfg on a w)) a w = resolveWindow cfg on a w := by
  by_cases hlow : a < 0x8000
  · simp only [resolveWindow, if_pos hlow]
  · cases hlook : (if on && decide (w = .w32) then findPacked a cfg.packedMap else none) with
    | none =>
      have hport : resolveWindow cfg on a w = resolvePort cfg.cap a w := by
        simp only [resolveWindow, if_neg hlow, hlook]
      rw [hport, not_isPacked_resolvePort]
      simp only [resolveWindow, if_neg hlow, Bool.false_and, Bool.false_eq_true, if_false]
    | some k =>
      have hpacked : resolveWindow cfg on a w = .packed k := by simp only [resolveWindow, if_neg hlow, hlook]
      have hon : (on && decide (w = .w32)) = true := by
        by_contra hno
        rw [if_neg hno] at hlook
        nomatch hlook
      rw [if_pos hon] at hlook
      rw [hpacked]
      simp only [resolveWindow, if_neg hlow, isPacked, Bool.true_and, (Bool.and_eq_true_iff.mp hon).2, if_true, hlook]

/-- A queued entry reaches what its write reached, whatever the signals are by then (R101, R145). -/
theorem entryTarget_entryOf {cfg : Config} {inp : Inputs} {sp : Space} {a : Nat} {w : Width} (h : a < 0x10000) :
    entryTarget cfg (decide (sp ≠ .io)) (isPacked (resolve cfg inp sp a w)) a w = resolve cfg inp sp a w := by
  cases sp with
  | io => rfl
  | legacyMmio =>
    simp only [resolve, if_pos h]
    exact resolveWindow_isPacked cfg _ a w
  | newMmio =>
    simp only [resolve, if_pos h]
    exact resolveWindow_isPacked cfg _ a w

/-! ### The waiting host (R102, R103) -/

/-- Where the queue is not drained the host's direct writes and reads wait (R102, R103). -/
theorem not_drained {f : Fifo} (h : 0 < f.entries ∨ f.busy = true) : f.drained = false := by
  rw [Fifo.drained]
  rcases h with h | h
  · rw [decide_eq_false (Nat.ne_of_gt h)]
    rfl
  · rw [h]
    exact Bool.and_false _

/-- A host that waits stands before a queue with entries, where the engine is not at work on one (R201). -/
theorem entries_pos_of_waits {s : State} {p : Part} (hfifo : FifoOk s) (h : s.waits p = true) :
    0 < s.fifo.entries := by
  obtain ⟨-, hbusy, -⟩ := hfifo
  have hheld : s.held p = true := (Bool.and_eq_true_iff.mp h).2
  unfold State.held at hheld
  cases hroute : (s.decisionOf p).route with
  | queued =>
    rw [hroute, blocks_queued, Fifo.full, decide_eq_true_eq] at hheld
    exact Nat.lt_of_lt_of_le (by decide) hheld
  | drained =>
    rw [hroute, blocks_drained, Fifo.drained, hbusy] at hheld
    simpa [Nat.pos_iff_ne_zero] using hheld
  | atOnce => rw [hroute] at hheld; nomatch hheld

/-- While the host waits and no turn is chosen, the engine drains (R16, R201). -/
theorem step_waiting {s : State} {p : Part} {ps : List Part} (hsched : s.host.sched = [])
    (hpending : s.host.pending = p :: ps) (hwaits : s.waits p = true) (hpos : 0 < s.fifo.entries) :
    step s = drain s := by
  have hready : s.hostReady = false := by simp [State.hostReady, hpending, hwaits]
  rw [step_noTurn hsched, hready, if_neg (by decide), engineStep_of_pos hpos]

theorem decisionOf_decided {s : State} {p : Part} {d : Decision} (h : p.decided = some d) : s.decisionOf p = d := by
  rw [State.decisionOf, h]
  rfl

/-- A part for which something is decided waits where it is held. -/
theorem waits_of_decided {s : State} {p : Part} {d : Decision} (h : p.decided = some d) : s.waits p = s.held p := by
  rw [State.waits, h]
  rfl

/-- A turn of the host goes on with the part under way (R95). -/
theorem step_hostPart {s : State} {p : Part} {ps : List Part} {ts : List Turn} (hpending : s.host.pending = p :: ps)
    (hsched : s.host.sched = .host :: ts) :
    step s = runPart p { s with host := { s.host with pending := ps, sched := ts } } := by
  simp only [step_host hsched, hostStep, withSched_host, hpending, List.isEmpty_cons, Bool.false_eq_true, if_false,
    advancePart]
  rfl

end Sys2Proof.Machine

namespace Sys2Proof
open Sys2Proof.Machine

/-- Settles O33: with room the entry is the tagged write, without it the part waits, decided to be queued. -/
theorem enqueue : Obligations.Enqueue := by
  unfold Obligations.Enqueue
  intro i s sp a w v hi hnamed hkind hcap hmode henable tag
  obtain ⟨hreach, halias⟩ := hnamed
  have hqueuing := queuing_of hcap hmode henable
  have haliased := aliased_of_none s.cfg sp a halias
  constructor
  · intro hroom
    have hfull : s.fifo.full = false := decide_eq_false (Nat.not_le.mpr hroom)
    have htag : tag = typeTag sp w := by cases sp <;> cases w <;> rfl
    rw [exec_of_accessOf hi, hostAccess_enqueue sp a w v s hreach haliased hkind hqueuing hfull, entryOf,
      BitVec.and_assoc, BitVec.and_self, htag]
    rfl
  · intro hno p
    have hroute : s.routeOf (resolve s.cfg s.inputs sp a w) (.write w v) = .queued :=
      (routeOf_queued_iff s _ w v).mpr ⟨hkind, hqueuing⟩
    have hfull : s.fifo.full = true := decide_eq_true hno
    have hheld := hostAccess_held sp a (.write w v) s hreach haliased
      (handledWhole_of_ne _ _ _ _ _ (ne_unmapped_of_queueable hkind)) (by rw [BusAction.width, hroute]; exact hfull)
    simp only [BusAction.width, hroute, wholePart, partAction_write] at hheld
    exact ⟨(exec_of_accessOf hi s).trans hheld, hfull⟩

/-- Settles O34: a push writes the slot behind the last entry, a pop leaves the ring as it is. -/
theorem queueOrder : Obligations.QueueOrder := by
  unfold Obligations.QueueOrder
  exact fun f e => ⟨fun hroom => ⟨queue_push e hroom, entries_push e hroom⟩,
    fun hpos => ⟨queue_pop hpos, entries_pop hpos⟩⟩

/-- Settles O36: tag, address and the packed mark of the entry give the write's target back. -/
theorem drainAsDirect : Obligations.DrainAsDirect := by
  unfold Obligations.DrainAsDirect
  intro s inp sp a w v haddr hkind
  obtain ⟨htag, ha⟩ := entryOf_fields sp a w v (resolve s.cfg inp sp a w) haddr
  simp only [applyEntry, htag, tagForm_typeTag, ha]
  rw [show (entryOf sp a w v (resolve s.cfg inp sp a w)).packed = isPacked (resolve s.cfg inp sp a w) from rfl,
    entryTarget_entryOf haddr]
  rfl

/-- Settles O37: the route of both is to wait for the drain, and the FIFO is not drained. -/
theorem hostHolds : Obligations.HostHolds := by
  unfold Obligations.HostHolds
  intro i s sp a act hi hnamed hmapped hother hbusy hwait p
  obtain ⟨hreach, halias⟩ := hnamed
  have hdrained := not_drained hbusy
  have hroute : s.routeOf (resolve s.cfg s.inputs sp a act.width) act = .drained := by
    cases act with
    | read w => exact (routeOf_read_iff s _ w).1.mpr ⟨hwait, hmapped, hother⟩
    | write w v =>
      rw [routeOf_write s _ w v hmapped hother, if_neg]
      rw [Bool.and_eq_true]
      rintro ⟨hkind, hqueuing⟩
      rcases hwait with h | h
      · rw [hqueuing] at h; nomatch h
      · rw [show (BusAction.write w v).width = w from rfl, h] at hkind; nomatch hkind
  have hblocked : s.fifo.blocks .drained = true := by rw [blocks_drained, hdrained]; rfl
  have hheld := hostAccess_held sp a act s hreach (aliased_of_none _ _ _ halias)
    (handledWhole_of_ne _ _ _ _ _ hmapped) (by rw [hroute]; exact hblocked)
  have hp : p = (wholePart sp a act).decideAs ⟨resolve s.cfg s.inputs sp a act.width, .drained⟩ := by
    cases act with
    | read w => rfl
    | write w v =>
      exact congrArg (fun b => Machine.Part.mk sp a b 0 w true (some ⟨resolve s.cfg s.inputs sp a w, .drained⟩))
        (partAction_write w v).symm
  rw [hroute, ← hp] at hheld
  exact ⟨(exec_of_accessOf hi s).trans hheld, hblocked⟩

/-- Settles O38: what waits was decided, and the signals are not asked again. -/
theorem heldProgress : Obligations.HeldProgress := by
  unfold Obligations.HeldProgress
  refine ⟨?waiting, ?signals, ?turn⟩
  case waiting =>
    intro s p ps hfifo hsched hpending hwaits
    have hpos := entries_pos_of_waits hfifo hwaits
    have hstep := step_waiting hsched hpending hwaits hpos
    refine ⟨hpos, hstep, fun t ht => ?_⟩
    rw [hstep] at ht
    rcases drain_cases s with ⟨t', h, -, -, hpop, hhost⟩ | ⟨e, h⟩
    · obtain rfl : t' = t := Host.Outcome.next.inj (h.symm.trans ht)
      have hentries := entries_pop hpos
      refine ⟨?_, (congrArg HostSide.pending hhost).trans hpending⟩
      rw [hpop]
      exact hentries
    · rw [h] at ht
      nomatch ht
  case signals =>
    intro s p inp hdecided
    obtain ⟨d, hd⟩ := Option.ne_none_iff_exists'.mp hdecided
    rw [waits_of_decided hd, waits_of_decided hd, State.held, State.held, decisionOf_decided hd, decisionOf_decided hd]
  case turn =>
    intro s p ps d ts hpending hsched hd
    have hstep := step_hostPart hpending hsched
    let u : State := { s with host := { s.host with pending := ps, sched := ts } }
    have hdecision : u.decisionOf p = d := decisionOf_decided hd
    constructor
    · intro hwaits
      have hheld : u.held p = true := (waits_of_decided (s := s) hd).symm.trans hwaits
      have hkept : p.decideAs d = p := by
        rw [Part.decideAs, ← hd]
      rw [hstep, runPart_held p u hheld, hdecision, hkept]
      show Host.Outcome.next { s with host := { s.host with pending := p :: ps, sched := ts } } = _
      rw [← hpending]
    · intro hwaits
      have hheld : u.held p = false := (waits_of_decided (s := s) hd).symm.trans hwaits
      refine ⟨fun w v hact => ?_, fun w hact hother hlast hlane => ?_⟩
      · rw [hstep, runPart_write p u w v hact hheld, hdecision, writePart_eq]
        rfl
      · have hvalue : gather p (readValue d.target w u).1 u.host.acc = (readValue d.target w u).1 := if_pos hlane
        rw [hstep, runPart_read p u w hact hheld, hdecision, readAccess_eq w u hother, if_pos hlast, hvalue]

end Sys2Proof
end

section
/-!
PROOFS. The visited pixel (spec/42_pixel_pipeline.md R210 to R231): a pixel of VRAM as its bytes (R81, R82), the
value a drawn pixel gets, what it leaves as it is, and the mix functions as ROP3 codes (R322).
-/
namespace Sys2Proof.Machine

/-! ### A pixel of VRAM as its bytes (R81, R82) -/

theorem pixelBytes_le_four (d : Depth) : pixelBytes d ≤ 4 := by cases d <;> decide

/-- Bit `b` of a pixel is bit `b % 8` of its byte `b / 8`. -/
theorem readPixelFrom_getLsbD (cfg : Config) (m : Memory) (i : Nat) {k n b : Nat} (hb : b < 32) :
    (readPixelFrom cfg m i k n).getLsbD b =
      (decide (8 * k ≤ b ∧ b < 8 * (k + n)) && (Memory.read m (byteAddr cfg i (b / 8))).getLsbD (b % 8)) := by
  induction n generalizing k with
  | zero =>
    have hempty : ¬ (8 * k ≤ b ∧ b < 8 * k) := by omega
    simp [readPixelFrom, hempty]
  | succ n ih =>
    rw [readPixelFrom, BitVec.getLsbD_or, ih, BitVec.getLsbD_shiftLeft, BitVec.getLsbD_setWidth]
    by_cases hhere : 8 * k ≤ b ∧ b < 8 * (k + 1)
    · have hdiv : b / 8 = k := by omega
      have hmod : b - 8 * k = b % 8 := by omega
      have hin : 8 * k ≤ b ∧ b < 8 * (k + (n + 1)) := by omega
      have hnext : ¬ (8 * (k + 1) ≤ b ∧ b < 8 * (k + 1 + n)) := by omega
      have hword : b % 8 < 32 := by omega
      simp [hb, hdiv, hmod, hin, hnext, hword, show ¬ b < 8 * k by omega]
    · have hout : (decide (b < 32) && !decide (b < 8 * k) &&
          (decide (b - 8 * k < 32) && (Memory.read m (byteAddr cfg i k)).getLsbD (b - 8 * k))) = false := by
        by_cases hlow : b < 8 * k
        · simp [hlow]
        · rw [BitVec.getLsbD_of_ge _ (b - 8 * k) (by omega), Bool.and_false, Bool.and_false]
      have hiff : (8 * (k + 1) ≤ b ∧ b < 8 * (k + 1 + n)) ↔ (8 * k ≤ b ∧ b < 8 * (k + (n + 1))) := by omega
      rw [hout, Bool.false_or, decide_eq_decide.mpr hiff]

/-- A pixel of VRAM has the width of a pixel. -/
theorem readPixel_masked (cfg : Config) (m : Memory) (i : Nat) :
    readPixel cfg m i &&& pixelMask cfg.depth = readPixel cfg m i := by
  refine BitVec.eq_of_getLsbD_eq fun b hb => ?_
  rw [BitVec.getLsbD_and, readPixel, readPixelFrom_getLsbD cfg m i hb]
  by_cases hin : b < 8 * pixelBytes cfg.depth <;> simp [pixelMask_eq, hb, hin]

/-- The bytes of a pixel are those of VRAM at its addresses. -/
theorem readPixel_byte (cfg : Config) (m : Memory) (i : Nat) {j : Nat} (hj : j < pixelBytes cfg.depth) :
    (readPixel cfg m i).extractLsb' (8 * j) 8 = Memory.read m (byteAddr cfg i j) := by
  have hfour := pixelBytes_le_four cfg.depth
  refine BitVec.eq_of_getLsbD_eq fun b hb => ?_
  have hdiv : (8 * j + b) / 8 = j := by omega
  have hmod : (8 * j + b) % 8 = b := by omega
  have hin : 8 * j + b < 8 * pixelBytes cfg.depth := by omega
  rw [BitVec.getLsbD_extractLsb', readPixel, readPixelFrom_getLsbD cfg m i (by omega), hdiv, hmod]
  simp [hb, hin]

/-- Two pixels whose bytes agree are equal at the pixel width. -/
theorem readPixel_eq_masked {cfg : Config} {m : Memory} {i : Nat} {v : Word}
    (h : ∀ j < pixelBytes cfg.depth, Memory.read m (byteAddr cfg i j) = v.extractLsb' (8 * j) 8) :
    readPixel cfg m i = v &&& pixelMask cfg.depth := by
  refine BitVec.eq_of_getLsbD_eq fun b hb => ?_
  rw [readPixel, readPixelFrom_getLsbD cfg m i hb, BitVec.getLsbD_and, pixelMask_eq]
  by_cases hin : b < 8 * pixelBytes cfg.depth
  · have hmod : b % 8 < 8 := by omega
    have hsum : 8 * (b / 8) + b % 8 = b := by omega
    rw [h (b / 8) (by omega), BitVec.getLsbD_extractLsb', hsum]
    simp [hb, hin, hmod]
  · simp [hin]

/-- The bytes of a pixel stand apart where VRAM is at least a pixel long. -/
theorem byteAddr_ne (cfg : Config) (i : Nat) {n j k : Nat} (hn : n ≤ 2 ^ cfg.vramBits) (hj : j < n) (hk : k < n)
    (hne : j ≠ k) : byteAddr cfg i j ≠ byteAddr cfg i k := by
  intro heq
  have hmod : j ≡ k [MOD 2 ^ cfg.vramBits] := Nat.ModEq.add_left_cancel' _ heq
  exact hne (hmod.eq_of_lt_of_lt (by omega) (by omega))

/-- A byte of a written pixel reads as the byte of the value. -/
theorem read_writePixelFrom (cfg : Config) (i : Nat) (v : Word) {n k j : Nat} {m : Memory}
    (hwf : Memory.wf m = true) (hn : k + n ≤ 2 ^ cfg.vramBits) (hkj : k ≤ j) (hj : j < k + n) :
    Memory.read (writePixelFrom cfg m i v k n) (byteAddr cfg i j) = v.extractLsb' (8 * j) 8 := by
  induction n generalizing k m with
  | zero => omega
  | succ n ih =>
    rw [writePixelFrom]
    by_cases hhere : j = k
    · subst hhere
      rw [read_writePixelFrom_other cfg i v _ _ _ _
        fun l hl hl' => byteAddr_ne cfg i hn (by omega) (by omega) (by omega), Memory.read_write_same _ _ _ hwf]
    · exact ih (Memory.wf_write _ _ _ hwf) (by omega) (by omega) (by omega)

/-- A pixel value written is read back at the pixel width (R82). -/
theorem readPixel_writePixel {cfg : Config} {m : Memory} (i : Nat) (v : Word) (hwf : Memory.wf m = true)
    (hsize : pixelBytes cfg.depth ≤ 2 ^ cfg.vramBits) :
    readPixel cfg (writePixel cfg m i v) i = v &&& pixelMask cfg.depth :=
  readPixel_eq_masked fun j hj => read_writePixelFrom cfg i v hwf (by omega) (Nat.zero_le j) (by omega)

/-- Writing the bytes that stand there changes nothing, where a pixel overlaps itself too. -/
theorem read_writePixelFrom_self (cfg : Config) (i : Nat) (v : Word) (n k : Nat) {m : Memory}
    (hwf : Memory.wf m = true)
    (hsame : ∀ j, k ≤ j → j < k + n → v.extractLsb' (8 * j) 8 = Memory.read m (byteAddr cfg i j)) (a : Nat) :
    Memory.read (writePixelFrom cfg m i v k n) a = Memory.read m a := by
  induction n generalizing k m with
  | zero => rfl
  | succ n ih =>
    have hwrite (x : Nat) :
        Memory.read (Memory.write m (byteAddr cfg i k) (v.extractLsb' (8 * k) 8)) x = Memory.read m x := by
      by_cases hx : x = byteAddr cfg i k
      · rw [hx, Memory.read_write_same _ _ _ hwf, hsame k le_rfl (by omega)]
      · exact Memory.read_write_other _ _ _ _ hx
    rw [writePixelFrom, ih _ (Memory.wf_write _ _ _ hwf), hwrite]
    intro j hj hj'
    rw [hwrite, hsame j (by omega) (by omega)]

/-- Writing back the pixel that stands there changes nothing. -/
theorem read_writePixel_self {cfg : Config} {m : Memory} (i : Nat) (hwf : Memory.wf m = true) (a : Nat) :
    Memory.read (writePixel cfg m i (readPixel cfg m i)) a = Memory.read m a :=
  read_writePixelFrom_self cfg i _ _ 0 hwf (fun _ _ hj => readPixel_byte cfg m i (by omega)) a

/-! ### The gates of a visited pixel (R210 to R213, R230) -/

/-- The clip test passes where the inverse flag differs from the position's side (R211). -/
theorem clipPass_iff (r : Regs) (x y : Nat) :
    r.clipPass x y = true ↔
      ¬ (((r.mf 2).toNat ≤ x ∧ x ≤ (r.mf 4).toNat ∧ (r.mf 1).toNat ≤ y ∧ y ≤ (r.mf 3).toNat) ↔
        (r.mf 0xE).getLsbD 5 = true) := by
  rw [Regs.clipPass, bne_iff_ne, Ne, Bool.eq_iff_iff, not_iff_not]
  simp [Regs.insideClip, Regs.clipInv, Regs.multMisc, and_assoc]

/-- The two modes of the colour compare that skip (R213). -/
theorem compareSkip_iff (r : Regs) (pm src : Word) :
    r.compareSkip pm src = true ↔
      ((r.mf 0xE).extractLsb' 7 2 = 2 ∧ src &&& pm = r.colorCmp &&& pm) ∨
        ((r.mf 0xE).extractLsb' 7 2 = 3 ∧ src &&& pm ≠ r.colorCmp &&& pm) := by
  have hmode : r.cmpMode = (r.mf 0xE).extractLsb' 7 2 := rfl
  rw [Regs.compareSkip, hmode]
  generalize (r.mf 0xE).extractLsb' 7 2 = mode
  have hcases : mode = 0 ∨ mode = 1 ∨ mode = 2 ∨ mode = 3 := by revert mode; decide
  rcases hcases with rfl | rfl | rfl | rfl <;> simp

/-- A clipped pixel writes nothing (R211). -/
theorem pixelVram_clipped {s : State} {x y : Int} (v p : Option Word) (sup : Bool)
    (h : s.regs.clipPass (reduce s.cfg x) (reduce s.cfg y) = false) : s.pixelVram x y v p sup = s.vram := by
  simp [State.pixelVram, h]

/-- A pixel that is not drawn writes nothing (R230). -/
theorem pixelVram_undrawn {s : State} {x y : Int} (v p : Option Word) {sup : Bool}
    (h : cmdDraw s.eng.cmd = false ∨ sup = true) : s.pixelVram x y v p sup = s.vram := by
  have hgate : (cmdDraw s.eng.cmd && !sup) = false := by rcases h with h | h <;> simp [h]
  simp [State.pixelVram, hgate]

/-- What a visited pixel writes is nothing, or a value under the write mask (R230). -/
theorem pixelVram_masked (s : State) (x y : Int) (v p : Option Word) (sup : Bool) :
    s.pixelVram x y v p sup = s.vram ∨ ∃ r, s.pixelVram x y v p sup =
      writePixel s.cfg s.vram (destIndex s x y) (maskedWrite s.regs.wrtMask (pixelMask s.cfg.depth) r
        (readPixel s.cfg s.vram (destIndex s x y))) := by
  unfold State.pixelVram
  dsimp only
  split
  · split
    · exact .inl rfl
    · split
      · exact .inr ⟨_, rfl⟩
      · exact .inl rfl
  · exact .inl rfl

/-- A write mask with no bit inside the pixel lets the old pixel through (R230). -/
theorem maskedWrite_closed {wm pm : Word} (r d : Word) (h : wm &&& pm = 0) : maskedWrite wm pm r d = d &&& pm := by
  refine BitVec.eq_of_getLsbD_eq fun b hb => ?_
  have hbit : (wm.getLsbD b && pm.getLsbD b) = false := by
    rw [← BitVec.getLsbD_and, h]
    exact BitVec.getLsbD_zero
  simp only [maskedWrite, BitVec.getLsbD_and, BitVec.getLsbD_or, BitVec.getLsbD_not, hb, decide_true, Bool.true_and]
  revert hbit
  cases wm.getLsbD b <;> cases pm.getLsbD b <;> simp

/-! ### The value a drawn pixel gets (R213 to R216) -/

/-- The mix bit in the four modes of `MIXSEL` (R214). -/
theorem mixBit_eq {s : State} {v : Option Word} {dst : Nat} {bit : Bool}
    (hone : s.regs.mixSel = 0 ∨ s.regs.mixSel = 1 → bit = true)
    (hcpu : s.regs.mixSel = 2 → takesCpu s.eng.cmd = true ∧ ∃ bs, s.eng.cpuBits = bit :: bs)
    (hcompare : s.regs.mixSel = 3 → bit = decide (v.getD (readPixel s.cfg s.vram dst) &&& s.regs.rdMask &&&
      pixelMask s.cfg.depth = s.regs.rdMask &&& pixelMask s.cfg.depth)) :
    s.mixBit v dst = bit := by
  have hcases : ∀ q : BitVec 2, q = 0 ∨ q = 1 ∨ q = 2 ∨ q = 3 := by decide
  rcases hcases s.regs.mixSel with h | h | h | h
  · simp [State.mixBit, h, hone (.inl h)]
  · simp [State.mixBit, h, hone (.inr h)]
  · obtain ⟨htakes, bs, hbits⟩ := hcpu h
    simp [State.mixBit, State.nextMixBit, h, htakes, hbits]
  · simp [State.mixBit, h, hcompare h]

/-- The colour source in its four codes (R216). -/
theorem colorSource_eq {s : State} {csrc : BitVec 2} {v : Option Word} {d src : Word}
    (hbkgd : csrc = 0 → src = s.regs.bkgdColor &&& pixelMask s.cfg.depth)
    (hfrgd : csrc = 1 → src = s.regs.frgdColor &&& pixelMask s.cfg.depth)
    (hcpu : csrc = 2 → s.takesCpuPix = true ∧ ∃ c cs, s.eng.cpuPix = c :: cs ∧ src = c &&& pixelMask s.cfg.depth)
    (hvram : csrc = 3 → src = v.getD d) :
    s.colorSource csrc v d = src := by
  have hcases : ∀ q : BitVec 2, q = 0 ∨ q = 1 ∨ q = 2 ∨ q = 3 := by decide
  rcases hcases csrc with h | h | h | h
  · simp [State.colorSource, h, hbkgd h]
  · simp [State.colorSource, h, hfrgd h]
  · obtain ⟨htakes, c, cs, hpix, rfl⟩ := hcpu h
    simp [State.colorSource, State.cpuPixel, h, htakes, hpix]
  · simp [State.colorSource, h, hvram h]

/-- A pixel inside the clip region and drawn: nothing where the compare skips, else its result under the write mask
(R210). -/
theorem pixelVram_drawn {s : State} {x y : Int} {v : Option Word} (p : Option Word) {bit : Bool} {src : Word}
    (hclip : s.regs.clipPass (reduce s.cfg x) (reduce s.cfg y) = true) (hdraw : cmdDraw s.eng.cmd = true)
    (hbit : s.mixBit v (destIndex s x y) = bit)
    (hsrc : s.colorSource (mixSource (s.regs.mixReg bit)) v (readPixel s.cfg s.vram (destIndex s x y)) = src) :
    s.pixelVram x y v p false =
      if s.regs.compareSkip (pixelMask s.cfg.depth) src then s.vram
      else writePixel s.cfg s.vram (destIndex s x y) (maskedWrite s.regs.wrtMask (pixelMask s.cfg.depth)
        (s.pixelResult (s.regs.mixReg bit) p src (readPixel s.cfg s.vram (destIndex s x y)))
        (readPixel s.cfg s.vram (destIndex s x y))) := by
  subst hbit hsrc
  simp only [State.pixelVram, hclip, hdraw, Bool.not_false, Bool.and_self, if_true]
  rfl

/-! ### The mix functions as ROP3 codes (R322) -/

/-- The truth table of a mix function over the bits of source and destination, in a nibble (R322). -/
def mixTable (f : BitVec 4) : BitVec 4 :=
  let bit : Bool → Bool → Bool := fun a b =>
    (mixCode f (if a then BitVec.allOnes 32 else 0) (if b then BitVec.allOnes 32 else 0)).getLsbD 0
  BitVec.ofBool (bit true true) ++ (BitVec.ofBool (bit true false) ++
    (BitVec.ofBool (bit false true) ++ BitVec.ofBool (bit false false)))

/-- A mix function works bit by bit: on the word of one bit everywhere it gives that bit of its result. -/
theorem mixCode_getLsbD_fill {b : Nat} (hb : b < 32) (f : BitVec 4) (s d : Word) :
    (mixCode f s d).getLsbD b = (mixCode f (if s.getLsbD b then BitVec.allOnes 32 else 0)
      (if d.getLsbD b then BitVec.allOnes 32 else 0)).getLsbD 0 := by
  rw [BitVec.getLsbD_eq_getElem hb (x := s), BitVec.getLsbD_eq_getElem hb (x := d)]
  obtain ⟨n, rfl⟩ : ∃ n : Fin 16, f = BitVec.ofFin n := ⟨f.toFin, rfl⟩
  fin_cases n <;> simp [mixCode, hb, -BitVec.reduceAllOnes] <;> cases s[b] <;> cases d[b] <;> decide

/-- A ROP3 code with the truth table in both nibbles looks it up for either pattern bit. -/
theorem mixTable_getLsbD (f : BitVec 4) (p s d : Bool) :
    (mixTable f ++ mixTable f).getLsbD (ropIndex p s d) =
      (mixCode f (if s then BitVec.allOnes 32 else 0) (if d then BitVec.allOnes 32 else 0)).getLsbD 0 := by
  revert f p s d
  decide

theorem mixFn_eq_rop3 (pm : Word) (f : BitVec 4) (p s d : Word) :
    mixFn pm f s d = rop3 pm (mixTable f ++ mixTable f) p s d := by
  refine BitVec.eq_of_getLsbD_eq fun b hb => ?_
  rw [mixFn, rop3, BitVec.getLsbD_and, BitVec.getLsbD_and, ropCode_getLsbD hb, mixTable_getLsbD,
    mixCode_getLsbD_fill hb]

end Sys2Proof.Machine

namespace Sys2Proof
open Sys2Proof.Machine

/-- Settles O41: the bytes of the pixel stand apart, each is read as it was written, and together they are the value. -/
theorem pixelRoundTrip : Obligations.PixelRoundTrip := by
  unfold Obligations.PixelRoundTrip
  intro cfg m i v hwf hsize
  exact readPixel_writePixel i v hwf hsize

/-- Settles O39: the gates of the pixel leave VRAM as it is, and a closed write mask writes back the pixel's own
bytes. -/
theorem pixelFrame : Obligations.PixelFrame := by
  unfold Obligations.PixelFrame
  intro s x y v p sup
  refine ⟨rfl, rfl, rfl, rfl, rfl, pixelEng_rest s, ?phase, sameOutside_pixel x y v p sup s, ?fed, ?unfed, ?clipped,
    ?undrawn, ?closed⟩
  case phase =>
    intro hdoubled
    simp [State.pixelEng, hdoubled]
  case fed =>
    intro hfed
    by_cases hmix : s.regs.mixSel = 2#2 <;>
      simp [State.pixelEng, State.takesCpuBits, State.takesCpuPix, hfed, hmix]
  case unfed =>
    intro hunfed
    simp [State.pixelEng, State.takesCpuBits, State.takesCpuPix, hunfed]
  case clipped =>
    intro hside
    have hclip := (not_congr (clipPass_iff s.regs (reduce s.cfg x) (reduce s.cfg y))).mpr (not_not.mpr hside)
    exact pixelVram_clipped v p sup (Bool.eq_false_iff.mpr hclip)
  case undrawn =>
    intro hdraw
    exact pixelVram_undrawn v p hdraw
  case closed =>
    intro hwf hmask a
    rw [pixel_vram]
    rcases pixelVram_masked s x y v p sup with hvram | ⟨r, hvram⟩ <;> rw [hvram]
    rw [maskedWrite_closed _ _ hmask, readPixel_masked]
    exact read_writePixel_self _ hwf a

/-- Settles O40: the hypotheses fix the mix bit and the source, and the written value is read back. -/
theorem pixelResult : Obligations.PixelResult := by
  unfold Obligations.PixelResult
  intro s x y v p ⟨hwf, _⟩ hsize hrop hdraw hclip pm d bit hone hbits hcompare m src hbkgd hfrgd hcpu hsource skip r
  have hresult : s.pixelResult (s.regs.mixReg bit) p src d = r := by
    simp only [State.pixelResult, hrop]
    rfl
  have hvram := pixelVram_drawn p ((clipPass_iff ..).mpr hclip) hdraw (mixBit_eq hone hbits hcompare)
    (colorSource_eq (csrc := mixSource (s.regs.mixReg bit)) hbkgd hfrgd hcpu hsource)
  rw [pixel_vram, hvram]
  constructor
  · intro hskip
    rw [if_pos ((compareSkip_iff ..).mpr hskip)]
  · intro hskip
    rw [if_neg (fun h => hskip ((compareSkip_iff ..).mp h)), readPixel_writePixel _ _ hwf hsize, hresult, maskedWrite,
      BitVec.and_assoc, BitVec.and_self]

/-- Settles O43: both nibbles of the code are the truth table, and the sixteen codes are its values. -/
theorem mixAsRop : Obligations.MixAsRop := by
  unfold Obligations.MixAsRop
  refine ⟨mixFn_eq_rop3, fun pm p s d f code hcode => ?_⟩
  have htable : mixTable f ++ mixTable f = code := by
    revert f code
    decide
  rw [mixFn_eq_rop3 pm f p s d, htable]

end Sys2Proof
end

section
/-!
PROOFS. The pixel-transfer port (spec/40_bus_access.md R162, R175): its bytes are staged one by one, an operation that
takes none leaves them staged, and the windows below 0x8000 reach the port whatever the offset (R115, R116).
-/
namespace Sys2Proof.Machine

/-! ### A result that goes on -/

theorem thenNext_next (r : Result) : thenNext r .next = r := by cases r <;> rfl

theorem thenNext_congr {r : Result} {f g : State → Result} (h : ∀ t, r = .next t → f t = g t) :
    thenNext r f = thenNext r g := by
  cases r with
  | next t => exact h t rfl
  | fault _ => rfl
  | refused _ => rfl

theorem thenNext_assoc (r : Result) (f g : State → Result) :
    thenNext (thenNext r f) g = thenNext r fun t => thenNext (f t) g := by cases r <;> rfl

/-! ### What drawing leaves of the way an access is performed (R89, R150) -/

theorem named_of_rest {s t : State} (h : restOf t = restOf s) {sp : Space} {a : Nat} (hnamed : named s sp a) :
    named t sp a := by
  rwa [named, cfg_of_rest h, inputs_of_rest h]

theorem writesNow_of_rest {s t : State} (h : restOf t = restOf s) (hnow : writesNow s) : writesNow t := by
  have hregs := regs_eq_of_rest (regs_of_rest h)
  have hadvfunc : t.regs.advfunc = s.regs.advfunc := by rw [hregs]
  rwa [writesNow, State.queuing, State.enableFifo, cfg_of_rest h, inputs_of_rest h, fifo_of_rest h, hadvfunc]

/-! ### The bytes of a write (R162) -/

theorem writePix_append (bs cs : List Byte) (s : State) :
    writePix (bs ++ cs) s = thenNext (writePix bs s) (writePix cs) := by
  induction bs generalizing s with
  | nil => rfl
  | cons b bs ih =>
    rw [List.cons_append, writePix, writePix, thenNext_assoc]
    exact thenNext_congr fun t _ => ih t

theorem writePix_single (b : Byte) (s : State) : writePix [b] s = pixByte b s := thenNext_next _

/-- What the bytes of a write do leaves the way an access is performed. -/
theorem writePix_keeps_access {bs : List Byte} {s t : State} (h : writePix bs s = .next t) :
    (∀ {sp : Space} {a : Nat}, named s sp a → named t sp a) ∧ (writesNow s → writesNow t) := by
  induction bs generalizing s with
  | nil =>
    obtain rfl : s = t := Host.Outcome.next.inj h
    exact ⟨id, id⟩
  | cons b bs ih =>
    obtain ⟨u, hbyte, hrest⟩ := thenNext_eq_next h
    obtain ⟨hnamed, hnow⟩ := ih hrest
    rcases pixByte_cases b s with ⟨u', hnext, hkeeps⟩ | ⟨r, hrefused⟩
    · obtain rfl : u' = u := Host.Outcome.next.inj (hnext.symm.trans hbyte)
      exact ⟨fun hs => hnamed (named_of_rest hkeeps hs), fun hs => hnow (writesNow_of_rest hkeeps hs)⟩
    · rw [hrefused] at hbyte
      nomatch hbyte

theorem valueBytes_eq (v : Word) (k n : Nat) :
    valueBytes v k n = (List.range n).map fun j => v.extractLsb' (8 * (k + j)) 8 := by
  induction n generalizing k with
  | zero => rfl
  | succ n ih =>
    have hshift (j : Nat) : k + 1 + j = k + (j + 1) := by omega
    simp only [valueBytes, ih, List.range_succ_eq_map (n := n), List.map_cons, List.map_map, Function.comp_def, hshift]
    rfl

theorem valueBytes_masked (w : Width) (v : Word) :
    valueBytes (v &&& widthMask w) 0 (widthBytes w) = valueBytes v 0 (widthBytes w) := by
  rw [valueBytes_eq, valueBytes_eq]
  refine List.map_congr_left fun j hj => extractLsb'_and_widthMask w v _ 8 ?_
  have hin := List.mem_range.mp hj
  omega

/-- The bytes of a field of a word are its bytes there. -/
theorem valueBytes_field (v : Word) (k : Nat) {n : Nat} (hn : n ≤ 4) :
    valueBytes ((v.extractLsb' (8 * k) (8 * n)).setWidth 32) 0 n = valueBytes v k n := by
  rw [valueBytes_eq, valueBytes_eq]
  refine List.map_congr_left fun j hj => BitVec.eq_of_getLsbD_eq fun i hi => ?_
  have hin := List.mem_range.mp hj
  have hfield : 8 * (0 + j) + i < 8 * n := by omega
  have hword : 8 * (0 + j) + i < 32 := by omega
  have hsum : 8 * k + (8 * (0 + j) + i) = 8 * (k + j) + i := by omega
  simp only [BitVec.getLsbD_extractLsb', BitVec.getLsbD_setWidth, hi, hfield, hword, hsum, decide_true, Bool.true_and]

/-- A write performed at once where it reaches the port is its bytes, one after another. -/
theorem hostAccess_writePix {s : State} {sp : Space} {a lane : Nat} {w : Width} (v : Word)
    (hreach : reaches s.cfg s.inputs sp = true) (halias : aliased s.cfg sp a = a)
    (htarget : resolve s.cfg s.inputs sp a w = .pix lane) (hnow : writesNow s) :
    hostAccess sp a (.write w v) s = writePix (valueBytes v 0 (widthBytes w)) s := by
  obtain ⟨hqueue, hdrained⟩ := hnow
  have hdispatch := hostAccess_dispatch sp a w v s hreach halias (by rw [htarget]; nofun) (by rw [htarget]; nofun)
    (by rw [hqueue, Bool.and_false]) hdrained
  rw [hdispatch, htarget, dispatch, valueBytes_masked]

theorem exec_outPixTrans {s : State} {lane : BitVec 2} {w : Width} (v : Word) (h : w = .w8 ∨ lane = 0)
    (hnamed : named s .io (pixPortLo + lane.toNat)) (hnow : writesNow s) :
    exec (.outPixTrans lane w v) s = writePix (valueBytes v 0 (widthBytes w)) s := by
  obtain ⟨hreach, halias⟩ := hnamed
  rw [exec_access, accessOf]
  exact hostAccess_writePix v hreach (aliased_of_none _ _ _ halias) (resolve_pixPort _ _ h) hnow

theorem exec_outPixTrans_byte {s : State} {lane : BitVec 2} (v : Word)
    (hnamed : named s .io (pixPortLo + lane.toNat)) (hnow : writesNow s) :
    exec (.outPixTrans lane .w8 v) s = pixByte (v.extractLsb' 0 8) s := by
  rw [exec_outPixTrans v (.inl rfl) hnamed hnow]
  exact writePix_single _ s

/-- A write whose bytes are those of two others is the two, one after the other. -/
theorem exec_outPixTrans_append {s : State} {lane : BitVec 2} {w w' : Width} {v v0 v1 : Word} (hlane : lane = 0)
    (hnamed : named s .io (pixPortLo + lane.toNat)) (hnow : writesNow s)
    (hbytes : valueBytes v 0 (widthBytes w) =
      valueBytes v0 0 (widthBytes w') ++ valueBytes v1 0 (widthBytes w')) :
    exec (.outPixTrans lane w v) s =
      thenNext (exec (.outPixTrans lane w' v0) s) (exec (.outPixTrans lane w' v1)) := by
  rw [exec_outPixTrans v (.inr hlane) hnamed hnow, exec_outPixTrans v0 (.inr hlane) hnamed hnow, hbytes,
    writePix_append]
  refine thenNext_congr fun t ht => ?_
  obtain ⟨hnamed', hnow'⟩ := writePix_keeps_access ht
  exact (exec_outPixTrans v1 (.inr hlane) (hnamed' hnamed) (hnow' hnow)).symm

/-- A write beside the base is its first byte, and its other parts wait (R86, R112). -/
theorem exec_outPixTrans_split {s : State} {lane : BitVec 2} (w : Width) (v : Word) (hlane : lane ≠ 0)
    (hnamed : named s .io (pixPortLo + lane.toNat)) (hnow : writesNow s) :
    exec (.outPixTrans lane w v) s =
      exec (.outPixTrans lane .w8 (v &&& 0xFF)) (pushParts (pixTail lane.toNat (.write w v)) s) := by
  by_cases hw : w = .w8
  · subst hw
    have hparts : pixTail lane.toNat (.write .w8 v) = [] := rfl
    have hmask := extractLsb'_and_widthMask .w8 v 0 8 (by decide)
    rw [hparts, pushParts_nil, exec_outPixTrans_byte v hnamed hnow, exec_outPixTrans_byte _ hnamed hnow]
    exact congrArg (pixByte · s) hmask.symm
  · obtain ⟨hone, hfirst, hrest⟩ := split_pix s hlane (act := .write w v) hw
    simp only [BusAction.width] at hone hfirst
    have hheld : s.held (firstPart s .io (pixPortLo + lane.toNat) (.write w v)) = false := by
      rw [firstPart_held]
      exact not_blocks_write _ _ (.inl hnow.2)
    have hsplit := hostAccess_splitWrite hnamed hone hheld
    rw [hfirst, hrest] at hsplit
    exact hsplit

/-- A byte that no operation takes is staged, and the count goes on (R162). -/
theorem pixByte_staged (b : Byte) {s : State}
    (h : (s.eng.active && takesCpu s.eng.cmd && cmdWrtdata s.eng.cmd) = false) :
    pixByte b s = .next { s with
      regs := { s.regs with pixTrans := s.regs.pixTrans.set s.eng.pixCount.toNat b }
      eng := { s.eng with
        pixCount := if s.eng.pixCount.toNat + 1 = unitSize s.regs.cmd then 0 else s.eng.pixCount + 1 } } := by
  have hcount : BitVec.ofNat 2 (s.eng.pixCount.toNat + 1) = s.eng.pixCount + 1 := by
    rw [BitVec.ofNat_add, BitVec.ofNat_toNat, BitVec.setWidth_eq]
    rfl
  have hunfed : ((setPixCount 0 (stageByte b s)).eng.active && takesCpu (setPixCount 0 (stageByte b s)).eng.cmd &&
      cmdWrtdata (setPixCount 0 (stageByte b s)).eng.cmd) = false := h
  unfold pixByte
  simp only [hunfed, Bool.false_eq_true, if_false]
  split
  · rfl
  · simp only [setPixCount, hcount, stageByte]

/-- While no operation is active every write of the port completes. -/
theorem writePix_idle (bs : List Byte) {s : State} (h : s.eng.active = false) : ∃ t, writePix bs s = .next t := by
  induction bs generalizing s with
  | nil => exact ⟨s, rfl⟩
  | cons b bs ih =>
    rw [writePix, pixByte_staged b (by rw [h]; rfl)]
    exact ih h

/-! ### The bytes of a read (R175) -/

/-- The value that bytes make, from the least significant one on, at a width. -/
def bytesWord (w : Width) (b0 b1 b2 b3 : Byte) : Word :=
  match w with
  | .w8 => b0.setWidth 32
  | .w16 => (b1 ++ b0).setWidth 32
  | .w32 => b3 ++ (b2 ++ (b1 ++ b0))

/-- A read of the port is the bytes of its lane and the lanes after it, each read after the one before. -/
theorem readPix_eq (lane : Nat) (w : Width) (s : State) :
    readPix lane 0 (widthBytes w) s =
      let r0 := readPixByte lane s
      let r1 := readPixByte (lane + 1) r0.2
      let r2 := readPixByte (lane + 2) r1.2
      let r3 := readPixByte (lane + 3) r2.2
      (bytesWord w r0.1 r1.1 r2.1 r3.1, match w with
        | .w8 => r0.2
        | .w16 => r1.2
        | .w32 => r3.2) := by
  cases w with
  | w8 => simp [widthBytes, readPix, bytesWord]
  | w16 =>
    simp only [bytesWord, ← or_shiftLeft_byte _ _ (by decide : 8 + 8 ≤ 32)]
    simp [widthBytes, readPix]
  | w32 =>
    have happend (b0 b1 b2 b3 : Byte) : b3 ++ (b2 ++ (b1 ++ b0)) = b0.setWidth 32 ||| (b1.setWidth 32 <<< 8) |||
        (b2.setWidth 32 <<< 16) ||| (b3.setWidth 32 <<< 24) := by
      rw [or_shiftLeft_byte b1 b0 (by decide), or_shiftLeft_byte b2 (b1 ++ b0) (by decide),
        or_shiftLeft_byte b3 (b2 ++ (b1 ++ b0)) (by decide)]
      exact (BitVec.setWidth_eq _).symm
    simp only [bytesWord, happend]
    simp [widthBytes, readPix, BitVec.or_assoc]

/-- The four lanes of the port repeat. -/
theorem readPixByte_lane (lane : BitVec 2) (k : BitVec 2) (s : State) :
    readPixByte (lane.toNat + k.toNat) s = readPixByte (lane + k).toNat s := by
  have hmod : (lane + k).toNat % 4 = (lane.toNat + k.toNat) % 4 := by simp [BitVec.toNat_add]
  simp only [readPixByte, hmod]

/-- No read-back is in progress where the fields that make one are not set (R175). -/
theorem readingBack_eq_false_iff (s : State) :
    s.readingBack = false ↔ ¬ (s.eng.active = true ∧ s.eng.cls = 2 ∧ cmdPcdata s.eng.cmd = true ∧
      cmdWrtdata s.eng.cmd = false) := by
  rw [← Bool.not_eq_true, State.readingBack, not_iff_not]
  simp [and_assoc]

/-- The staging byte of a lane (R49). -/
def stagingByte (s : State) (lane : Nat) : Byte := s.regs.pixTrans.toList.getD (lane % 4) 0

theorem readPixByte_staging {s : State} (h : s.readingBack = false) (lane : Nat) :
    readPixByte lane s = (stagingByte s lane, s) := by
  have hlane : lane % 4 < 4 := Nat.mod_lt _ (by decide)
  simp [readPixByte, h, stagingByte, List.getD, hlane]

theorem readPix_staging {s : State} (h : s.readingBack = false) (lane : Nat) (w : Width) :
    readPix lane 0 (widthBytes w) s = (bytesWord w (stagingByte s lane) (stagingByte s (lane + 1))
      (stagingByte s (lane + 2)) (stagingByte s (lane + 3)), s) := by
  rw [readPix_eq]
  cases w <;> simp only [readPixByte_staging h]

/-! ### The windows below 0x8000 (R115, R116) -/

/-- An access below 0x8000 reaches the port, in the lane of its offset. -/
theorem resolve_pixWindow (cfg : Config) (inp : Inputs) (win : Window) (w : Width) {off : BitVec 17}
    (h : off.toNat < 0x8000) :
    resolve cfg inp win.space off.toNat w = .pix (off.extractLsb' 0 2).toNat := by
  have hlane : (off.extractLsb' 0 2).toNat = off.toNat % 4 := by simp
  have hwindow : off.toNat < 0x10000 := by omega
  rw [hlane]
  cases win with
  | legacy => simp only [Window.space, resolve, resolveWindow, h, hwindow, if_true]
  | linear => simp only [Window.space, resolve, resolveWindow, h, hwindow, if_true]

/-- No second name stands below 0x8000 of a window (R111). -/
theorem aliased_pixWindow (cfg : Config) (win : Window) {a : Nat} (h : a < 0x8000) : aliased cfg win.space a = a := by
  have hport : ¬ (win.space = .io ∨ (0x8000 ≤ a ∧ a < 0x10000)) := by
    rintro (hio | ⟨hlo, -⟩)
    · cases win <;> nomatch hio
    · omega
  exact if_neg hport

theorem exec_mmioPixTrans_write {s : State} {win : Window} {off : BitVec 17} (w : Width) (v : Word)
    (h : off.toNat < 0x8000) (hreach : reaches s.cfg s.inputs win.space = true) (hnow : writesNow s) :
    exec (.mmioPixTrans win off (.write w v)) s = writePix (valueBytes v 0 (widthBytes w)) s := by
  rw [exec_access, accessOf]
  exact hostAccess_writePix v hreach (aliased_pixWindow _ _ h) (resolve_pixWindow _ _ _ _ h) hnow

theorem exec_mmioPixTrans_read {s : State} {win : Window} {off : BitVec 17} (w : Width) (h : off.toNat < 0x8000)
    (hreach : reaches s.cfg s.inputs win.space = true) (hnow : readsNow s) :
    exec (.mmioPixTrans win off (.read w)) s =
      .next (returnRead w (readPix (off.extractLsb' 0 2).toNat 0 (widthBytes w) s).1
        (readPix (off.extractLsb' 0 2).toNat 0 (widthBytes w) s).2) := by
  have htarget := resolve_pixWindow s.cfg s.inputs win w h
  have hread := hostAccess_read win.space off.toNat w s hreach (aliased_pixWindow _ _ h)
    (handledWhole_of_ne _ _ _ _ _ (by rw [htarget]; nofun)) (by rw [htarget]; nofun) hnow
  rw [exec_access, accessOf, hread, htarget]
  rfl

end Sys2Proof.Machine

namespace Sys2Proof
open Sys2Proof.Machine

/-- Settles O16: a wide write at the base is its bytes, none of which changes how the next is performed; beside the
base the general split applies. -/
theorem pixTransStaging : Obligations.PixTransStaging := by
  unfold Obligations.PixTransStaging
  intro s lane v hnamed hnow
  refine ⟨fun hunfed => ?byte, fun hlane => ?half, fun hlane => ?word, fun hlane w => ?beside⟩
  case byte => rw [exec_outPixTrans_byte v hnamed hnow, pixByte_staged _ hunfed]
  case half =>
    exact exec_outPixTrans_append (w' := .w8) hlane hnamed hnow
      (congrArg₂ (· ++ ·) (valueBytes_field v 0 (n := 1) (by decide)).symm
        (valueBytes_field v 1 (n := 1) (by decide)).symm)
  case word =>
    exact exec_outPixTrans_append (w' := .w16) hlane hnamed hnow
      (congrArg₂ (· ++ ·) (valueBytes_field v 0 (n := 2) (by decide)).symm
        (valueBytes_field v 2 (n := 2) (by decide)).symm)
  case beside => exact exec_outPixTrans_split w v hlane hnamed hnow

/-- Settles O24: the staging bytes stand in the lanes, and no byte of the read changes them. -/
theorem pixTransReads : Obligations.PixTransReads := by
  unfold Obligations.PixTransReads
  intro s lane hnamed hnow hidle byte ret
  have hstaging : s.readingBack = false := by
    refine (readingBack_eq_false_iff s).mpr fun ⟨hactive, hcls, hpcdata, hwrt⟩ => ?_
    rw [hidle hactive hcls hpcdata] at hwrt
    nomatch hwrt
  have hread {w : Width} (h : w = .w8 ∨ lane = 0) :
      exec (.inPixTrans lane w) s = ret w (bytesWord w (byte 0) (byte 1) (byte 2) (byte 3)) := by
    rw [exec_inPixTrans h hnamed hnow, readPix_staging hstaging]
    rfl
  refine ⟨hread (.inl rfl), fun hlane => hread (.inr hlane), fun hlane => hread (.inr hlane), fun hlane w hw => ?_⟩
  rw [exec_inPixTrans_split hnamed hnow hlane hw, readPixByte_staging hstaging]
  rfl

/-- Settles O29: below 0x8000 the window resolves to the port's lane, so the access is performed as the port's. -/
theorem mmioPixels : Obligations.MmioPixels := by
  unfold Obligations.MmioPixels
  intro s win off w v hoff hreach hdrained hqueue lane byte reading gives
  have hreads : readsNow s := .inr hdrained
  have hwrite := exec_mmioPixTrans_write w v hoff hreach ⟨hqueue, hdrained⟩
  have hread := exec_mmioPixTrans_read w hoff hreach hreads
  refine ⟨fun hnamed => ?write, fun hnamed hwhole => ?read, fun hlanes => ?bytes, fun hidle => ?staging,
    ⟨_, hread⟩, fun hidle => ?completes⟩
  case write => rw [hwrite, exec_outPixTrans v (.inr rfl) hnamed ⟨hqueue, hdrained⟩]
  case read => rw [hread, exec_inPixTrans hwhole hnamed hreads]
  case bytes =>
    have hgives (k : BitVec 2) {a : State} (ha : sameContext s a) :
        gives (lane + k) a (readPixByte (lane.toNat + k.toNat) a).1 (readPixByte (lane.toNat + k.toNat) a).2 ∧
          sameContext s (readPixByte (lane.toNat + k.toNat) a).2 := by
      have hnext := sameContext_readPixByte (lane + k).toNat a
      have ⟨_, _, _, hhost⟩ := hnext
      rw [readPixByte_lane]
      exact ⟨⟨hhost, exec_inPixTrans_byte (ha.named (hlanes _)) (ha.readsNow hreads)⟩, ha.trans hnext⟩
    obtain ⟨h0, hs1⟩ := hgives 0 (.refl s)
    obtain ⟨h1, hs2⟩ := hgives 1 hs1
    obtain ⟨h2, hs3⟩ := hgives 2 hs2
    obtain ⟨h3, -⟩ := hgives 3 hs3
    rw [show lane + 0 = lane from BitVec.add_zero lane] at h0
    refine ⟨_, _, _, _, _, _, _, _, h0, h1, h2, h3, ?_⟩
    rw [hread, readPix_eq]
    cases w <;> rfl
  case staging =>
    rw [hread, readPix_staging ((readingBack_eq_false_iff s).mpr hidle)]
    cases w <;> rfl
  case completes =>
    rw [hwrite]
    exact writePix_idle _ hidle

end Sys2Proof
end

section
/-!
PROOFS. The register writes that may start drawing: what the model refuses of them (assumption log entries 14 to 16),
the bytes of `SHORT_STROKE` (spec/40_bus_access.md R155), and the mirror of the ports in the windows (R115, R116).
-/
namespace Sys2Proof.Machine

/-! ### What is refused (R27 to R29, R242) -/

theorem byteDoubled_iff (cfg : Config) :
    byteDoubled cfg = true ↔ cfg.cap.byteDoubling = true ∧ pixelBytes cfg.depth = 2 := by
  simp [byteDoubled]

theorem isReadBack_iff (c : Half) :
    isReadBack c = true ↔ cmdClass c = 2 ∧ cmdPcdata c = true ∧ cmdWrtdata c = false := by
  simp [isReadBack, and_assoc]

/-- The commands of a drawing class with `DRAW` set, but read-backs (R27). -/
theorem drawsPixels_command_iff (c : Half) :
    drawsPixels false c = true ↔ cmdDraw c = true ∧ cmdClass c ≠ 0 ∧
      ¬ (cmdClass c = 2 ∧ cmdPcdata c = true ∧ cmdWrtdata c = false) := by
  rw [← isReadBack_iff]
  simp [drawsPixels]

/-- A stroke draws by its own bit (R252). -/
theorem drawsPixels_stroke (c : Half) : drawsPixels true c = cmdDraw c := by simp [drawsPixels]

theorem packed32_iff (cap : Cap) (c : Half) :
    (cap.hasPacked32 && decide (cmdBus c = 3)) = true ↔ cap.hasPacked32 = true ∧ cmdBus c = 3 := by
  simp

theorem pixelsDoNotFit_iff (cfg : Config) (c : Half) :
    pixelsDoNotFit cfg c = true ↔ pixelBytes cfg.depth = 3 ∨ unitSize c < pixelBytes cfg.depth := by
  simp [pixelsDoNotFit]

theorem fedPixels_iff (r : Regs) (c : Half) :
    fedPixels r c = true ↔ takesCpu c = true ∧ cmdWrtdata c = true ∧ r.mixSel ≠ 2 := by
  simp [fedPixels, and_assoc]

/-- A command of class NOP is fed no pixels. -/
theorem fedPixels_of_nop (r : Regs) {c : Half} (h : cmdClass c = 0) : fedPixels r c = false := by
  have hcpu : takesCpu c = false := by apply takesCpu_of_cmdClass <;> rw [h] <;> decide
  rw [fedPixels, hcpu]
  rfl

/-- A stroke keeps the bus field of `CMD` and has its own draw bit (R252). -/
theorem strokeCmd_fields (c : Half) (dir : BitVec 3) (draw : Bool) (len : BitVec 4) :
    cmdDraw (strokeCmd c (strokeByte dir draw len)) = draw ∧
      cmdBus (strokeCmd c (strokeByte dir draw len)) = cmdBus c := by
  rw [strokeCmd_strokeByte]
  constructor
  · simp only [cmdDraw, BitVec.getLsbD_append]
    simp
  · have happ : (c.extractLsb' 5 11 ++ (BitVec.ofBool draw ++ c.extractLsb' 0 4) : Half).extractLsb' 9 2 =
        (c.extractLsb' 5 11).extractLsb' 4 2 := BitVec.extractLsb'_append_eq_of_le (by decide)
    rw [cmdBus, happ]
    refine BitVec.eq_of_getLsbD_eq fun i hi => ?_
    have hin : 4 + i < 11 := by omega
    simp only [cmdBus, BitVec.getLsbD_extractLsb', hi, hin, decide_true, Bool.true_and, ← Nat.add_assoc,
      Nat.reduceAdd]

/-- A completed unit whose pixels do not fit is refused (R242). -/
theorem pixByte_refused (b : Byte) {s : State} (hactive : s.eng.active = true)
    (hfed : fedPixels s.regs s.eng.cmd = true) (hlast : s.eng.pixCount.toNat + 1 = unitSize s.regs.cmd)
    (hfit : pixelsDoNotFit s.cfg s.regs.cmd = true) : pixByte b s = .refused .cpuPixelPacking := by
  obtain ⟨hcpu, hwrt, -⟩ := (fedPixels_iff ..).mp hfed
  have htakes : ((setPixCount 0 (stageByte b s)).eng.active && takesCpu (setPixCount 0 (stageByte b s)).eng.cmd &&
      cmdWrtdata (setPixCount 0 (stageByte b s)).eng.cmd) = true :=
    show (s.eng.active && takesCpu s.eng.cmd && cmdWrtdata s.eng.cmd) = true by rw [hactive, hcpu, hwrt]; rfl
  have hrefused : (fedPixels (setPixCount 0 (stageByte b s)).regs (setPixCount 0 (stageByte b s)).eng.cmd &&
      pixelsDoNotFit (setPixCount 0 (stageByte b s)).cfg (setPixCount 0 (stageByte b s)).regs.cmd) = true :=
    show (fedPixels s.regs s.eng.cmd && pixelsDoNotFit s.cfg s.regs.cmd) = true by rw [hfed, hfit]; rfl
  simp only [pixByte, if_pos hlast, htakes, if_true, feed, hrefused]

/-! ### The bytes of `SHORT_STROKE` (R155) -/

/-- Under a class other than NOP nothing is drawn. -/
theorem stroke_of_class_ne (b : Byte) {s : State} (h : cmdClass s.regs.cmd ≠ 0) : stroke b s = .next s := if_neg h

theorem writeStrokeByte_of_class_ne (part : RegPart) (b : Byte) {s : State} (h : cmdClass s.regs.cmd ≠ 0) :
    writeStrokeByte part b s = .next (storeStroke (writeHalf part (b.setWidth 32) s.regs.shortStroke) s) :=
  stroke_of_class_ne b h

/-- A stroke leaves the way the next access is performed. -/
theorem writeStrokeByte_keeps_access {part : RegPart} {b : Byte} {s t : State}
    (h : writeStrokeByte part b s = .next t) {sp : Space} {r : PortReg} {odd : Bool} (hopen : portOpen s sp r odd)
    (hnow : writesNow s) : portOpen t sp r odd ∧ writesNow t := by
  obtain ⟨hnamed, hpresent⟩ := hopen
  let u := storeStroke (writeHalf part (b.setWidth 32) s.regs.shortStroke) s
  rcases stroke_cases b u with ⟨t', hnext, hkeeps⟩ | ⟨r, hrefused⟩
  · obtain rfl : t' = t := Host.Outcome.next.inj (hnext.symm.trans h)
    have hpresent' : present t' r := by rwa [present, cfg_of_rest hkeeps]
    exact ⟨⟨named_of_rest (s := u) hkeeps hnamed, hpresent'⟩, writesNow_of_rest (s := u) hkeeps hnow⟩
  · exact nomatch hrefused.symm.trans h

/-- The byte writes of `SHORT_STROKE`, by port. -/
theorem exec_outShortStroke_byte {s : State} {hi : Bool} (v : Word) (hopen : portOpen s .io .shortStroke hi)
    (hnow : writesNow s) :
    exec (.outShortStroke hi .w8 v) s = writeStrokeByte (if hi then .hi else .lo) (v.setWidth 8) s := by
  cases hi with
  | false => exact exec_outInstr_of_writesNow .shortStroke v formOf_low hnow hopen
  | true => exact exec_outInstr_of_writesNow .shortStroke v formOf_high hnow hopen

theorem exec_outShortStroke_word {s : State} (v : Word) (hopen : portOpen s .io .shortStroke false)
    (hnow : writesNow s) :
    exec (.outShortStroke false .w16 v) s =
      thenNext (writeStrokeByte .lo (v.extractLsb' 0 8) s) (writeStrokeByte .hi (v.extractLsb' 8 8)) :=
  exec_outInstr_of_writesNow .shortStroke v formOf_word hnow hopen

/-! ### The mirror of the ports (R115, R116) -/

/-- A byte or 16-bit write of a port, performed at once in any space. -/
theorem exec_regWrite {s : State} {sp : Space} {r : PortReg} {odd : Bool} {w : Width} {part : RegPart} (v : Word)
    (hform : formOf odd w = some part) (hlo : 0x8000 ≤ portAddr r odd) (hopen : portOpen s sp r odd)
    (hnow : writesNow s) : exec (regWrite sp r odd w v) s = writeReg r part v s := by
  rw [exec_of_accessOf (accessOf_regWrite_any ..)]
  exact hostAccess_portWrite v hlo hform hopen hnow

/-- A byte or 16-bit read of a port, performed at once in any space. -/
theorem exec_regRead {s : State} {sp : Space} {r : PortReg} {odd : Bool} {w : Width} {part : RegPart}
    (hform : formOf odd w = some part) (hlo : 0x8000 ≤ portAddr r odd) (hopen : portOpen s sp r odd)
    (hnow : readsNow s) :
    exec (regRead sp r odd w) s =
      .next (returnRead w (readValue (.reg r part) w s).1 (readValue (.reg r part) w s).2) := by
  have hw : w ≠ .w32 := by
    rintro rfl
    cases odd <;> cases hform
  have htarget : resolve s.cfg s.inputs sp (portAddr r odd) w = .reg r part := by
    rw [resolve_portAddr hlo hopen hw, regTarget_of_formOf r hform]
  obtain ⟨⟨hreach, halias⟩, -⟩ := hopen
  have hread := hostAccess_read sp (portAddr r odd) w s hreach (aliased_of_none _ _ _ halias)
    (handledWhole_of_ne _ _ _ _ _ (by rw [htarget]; nofun)) (by rw [htarget]; nofun) hnow
  rw [exec_of_accessOf (accessOf_regRead_any ..), hread, htarget]

/-- The access of a window at the offset that is a port. -/
theorem regWrite_window (win : Window) (r : PortReg) (odd : Bool) (w : Width) (v : Word) :
    regWrite win.space r odd w v = .mmioReg win (BitVec.ofNat 17 (portAddr r odd)) (.write w v) := by cases win <;> rfl

theorem regRead_window (win : Window) (r : PortReg) (odd : Bool) (w : Width) :
    regRead win.space r odd w = .mmioReg win (BitVec.ofNat 17 (portAddr r odd)) (.read w) := by cases win <;> rfl

end Sys2Proof.Machine

namespace Sys2Proof
open Sys2Proof.Machine

/-- Settles O55: the three refusals are asked in this order of a command, of a stroke, and of a completed unit. -/
theorem refusedCommands : Obligations.RefusedCommands := by
  unfold Obligations.RefusedCommands
  refine ⟨?command, ?stroke, ?unit⟩
  case command =>
    intro s sp c hnow hgate doubling packed32 noFit
    have hdoubling : (byteDoubled s.cfg && drawsPixels false c) = true ↔ doubling := by
      rw [Bool.and_eq_true, byteDoubled_iff, drawsPixels_command_iff, and_assoc]
    have hpacked : (s.cfg.cap.hasPacked32 && decide (cmdBus c = 3)) = true ↔ packed32 := packed32_iff ..
    have hfit : (fedPixels s.regs c && pixelsDoNotFit s.cfg c) = true ↔ noFit := by
      rw [Bool.and_eq_true, fedPixels_iff, pixelsDoNotFit_iff, and_assoc, and_assoc]
    rw [exec_cmdInstr]
    refine ⟨fun h => ?_, fun h h' => ?_, fun h h' h'' => ?_, fun h h' h'' => ?_⟩
    · exact commandWrite_refused hnow hgate (refusedCommand_doubling (hdoubling.mpr h))
    · rw [← hdoubling, Bool.not_eq_true] at h
      exact commandWrite_refused hnow hgate (refusedCommand_packed h (hpacked.mpr h'))
    · rw [← hdoubling, Bool.not_eq_true] at h
      rw [← hpacked, Bool.not_eq_true] at h'
      exact commandWrite_refused hnow hgate (refusedCommand_noFit h h' (hfit.mpr h''))
    · rw [← hdoubling, Bool.not_eq_true] at h
      rw [← hpacked, Bool.not_eq_true] at h'
      rw [← hfit, Bool.not_eq_true] at h''
      exact ⟨_, commandWrite_begins hnow hgate (refusedCommand_none h h' h'')⟩
  case stroke =>
    intro s sp hi dir draw len hopen hnow hclass doubling packed32
    let b := strokeByte dir draw len
    let u := storeStroke (strokeHalf hi b s.regs.shortStroke) s
    obtain ⟨hdraw, hbus⟩ := strokeCmd_fields s.regs.cmd dir draw len
    have hdoubling : (byteDoubled u.cfg && drawsPixels true (strokeCmd u.regs.cmd b)) = true ↔ doubling := by
      rw [Bool.and_eq_true, byteDoubled_iff, drawsPixels_stroke, and_assoc]
      exact and_congr_right fun _ => and_congr_right fun _ => by rw [← hdraw]; rfl
    have hpacked : (u.cfg.cap.hasPacked32 && decide (cmdBus (strokeCmd u.regs.cmd b) = 3)) = true ↔ packed32 := by
      rw [packed32_iff]
      exact and_congr_right fun _ => by rw [← hbus]; rfl
    have hfit : (fedPixels u.regs (strokeCmd u.regs.cmd b) && pixelsDoNotFit u.cfg (strokeCmd u.regs.cmd b)) = false := by
      have hunfed : fedPixels u.regs (strokeCmd u.regs.cmd b) = false :=
        fedPixels_of_nop _ ((cmdClass_strokeCmd _ b).trans hclass)
      rw [hunfed, Bool.false_and]
    have hexec : exec (.ssv sp hi dir draw len) s = ssv b u :=
      (strokeWrite_eq b hopen hnow).trans (if_pos hclass)
    rw [hexec, ssv]
    refine ⟨fun h => ?_, fun h h' => ?_, fun h h' => ?_⟩
    · rw [refusedCommand_doubling (hdoubling.mpr h)]
    · rw [← hdoubling, Bool.not_eq_true] at h
      rw [refusedCommand_packed h (hpacked.mpr h')]
    · rw [← hdoubling, Bool.not_eq_true] at h
      rw [← hpacked, Bool.not_eq_true] at h'
      rw [refusedCommand_none h h' hfit]
      exact ⟨_, rfl⟩
  case unit =>
    intro s lane v hnamed hnow hactive hcpu hwrt hlast hmix hfit
    rw [exec_outPixTrans_byte v hnamed hnow]
    exact pixByte_refused _ hactive ((fedPixels_iff ..).mpr ⟨hcpu, hwrt, hmix⟩) hlast ((pixelsDoNotFit_iff ..).mpr hfit)

/-- Settles O15: a stroke that may not draw stores its byte; one that may leaves the port as it was for the next. -/
theorem shortStrokeWrites : Obligations.ShortStrokeWrites := by
  unfold Obligations.ShortStrokeWrites
  intro s v hlow hhigh hnow
  have hbyte (b : Byte) : (b.setWidth 32).setWidth 8 = b := BitVec.setWidth_setWidth_of_le b (by decide)
  have hfield (b : Byte) : (b.setWidth 32).extractLsb' 0 8 = b := hbyte b
  refine ⟨fun hclass => ⟨?stored, ?storedLow, ?storedHigh⟩, ?word, ?ssv⟩
  case stored =>
    have hwhole : v.extractLsb' 8 8 ++ v.extractLsb' 0 8 = v.extractLsb' 0 16 :=
      BitVec.extractLsb'_append_extractLsb'_eq_extractLsb' rfl
    have hlow8 (a b : Byte) : (a ++ b : Half).extractLsb' 0 8 = b := BitVec.extractLsb'_append_eq_right
    rw [exec_outShortStroke_word v hlow hnow, writeStrokeByte_of_class_ne .lo _ hclass, thenNext]
    refine (writeStrokeByte_of_class_ne .hi (v.extractLsb' 8 8) ?_).trans ?_
    · exact hclass
    simp only [storeStroke, mapRegs, writeHalf, hfield, hlow8, hwhole]
  case storedLow =>
    have hlow8 : ((v.setWidth 8).setWidth 32).extractLsb' 0 8 = v.extractLsb' 0 8 := hbyte (v.setWidth 8)
    rw [exec_outShortStroke_byte v hlow hnow]
    refine (writeStrokeByte_of_class_ne .lo _ hclass).trans ?_
    simp only [storeStroke, mapRegs, writeHalf, hlow8]
  case storedHigh =>
    have hlow8 : ((v.setWidth 8).setWidth 32).extractLsb' 0 8 = v.extractLsb' 0 8 := hbyte (v.setWidth 8)
    rw [exec_outShortStroke_byte v hhigh hnow]
    refine (writeStrokeByte_of_class_ne .hi _ hclass).trans ?_
    simp only [storeStroke, mapRegs, writeHalf, hlow8]
  case word =>
    rw [exec_outShortStroke_word v hlow hnow, exec_outShortStroke_byte _ hlow hnow, hbyte]
    refine thenNext_congr fun t ht => ?_
    obtain ⟨hhigh', hnow'⟩ := writeStrokeByte_keeps_access ht hhigh hnow
    rw [exec_outShortStroke_byte _ hhigh' hnow', hbyte]
    rfl
  case ssv =>
    intro hi dir draw len
    exact exec_access _ s

/-- Settles O28: the offset resolves to the register its port does, and a second name to the port it stands for. -/
theorem mmioRegisters : Obligations.MmioRegisters := by
  unfold Obligations.MmioRegisters
  refine ⟨?mirror, ?secondName⟩
  case mirror =>
    intro s win r odd w v part hform hlo hopen hdrained hqueue
    have hwrite := exec_regWrite v hform hlo hopen ⟨hqueue, hdrained⟩
    have hread := exec_regRead hform hlo hopen (.inr hdrained)
    rw [regWrite_window] at hwrite
    rw [regRead_window] at hread
    refine ⟨fun hport => ⟨?_, ?_⟩, ⟨_, hread⟩, fun hcmd hstroke => ?_⟩
    · rw [hwrite]
      exact (exec_regWrite v hform hlo hport ⟨hqueue, hdrained⟩).symm
    · rw [hread]
      exact (exec_regRead hform hlo hport (.inr hdrained)).symm
    · obtain ⟨t, ht, -⟩ := writeReg_stores r part v s hcmd hstroke
      exact ⟨t, hwrite.trans ht⟩
  case secondName =>
    intro s i j sp a p act hi hj hsp halias hport
    rw [exec_of_accessOf hi, exec_of_accessOf hj]
    exact hostAccess_second_name sp a p act s hsp halias hport

end Sys2Proof
end

section
/-!
PROOFS. The high-byte write of `CMD` (spec/40_bus_access.md R153): it starts the command of the same word, since no
operation looks at the count of staged bytes or at `data_available`, which the low byte would have cleared.
-/
namespace Sys2Proof.Machine

/-! ### The count of staged bytes and `data_available` in a run -/

/-- A state with another count of staged bytes and another `data_available`. -/
def withFlags (n : BitVec 2) (d : Bool) (s : State) : State :=
  { s with eng := { s.eng with pixCount := n, dataAvailable := d } }

/-- A walk whose steps do not look at a part of the state runs the same whatever that part is. -/
theorem runWalk_commute {f : State → State} {last : State → Bool} {visit advance finish : State → State}
    (hdata : ∀ s, (f s).hasData = s.hasData) (hlast : ∀ s, last (f s) = last s)
    (hvisit : Function.Commute visit f) (hadvance : Function.Commute advance f)
    (hfinish : Function.Commute finish f) (n : Nat) (s : State) :
    runWalk last visit advance finish n (f s) = f (runWalk last visit advance finish n s) := by
  induction n generalizing s with
  | zero => rfl
  | succ n ih =>
    rw [runWalk, runWalk, hdata, hvisit s, hlast, hfinish (visit s), hadvance (visit s), ih]
    split
    · split <;> rfl
    · rfl

theorem rectAdvance_withFlags (n : BitVec 2) (d : Bool) : Function.Commute rectAdvance (withFlags n d) := by
  intro s
  by_cases h : 0 < s.eng.sx
  · simp only [rectAdvance, withFlags, Eng.rectStep, h, if_true]
  · simp only [rectAdvance, withFlags, Eng.rectStep, h, if_false]
    rfl

theorem blitAdvance_withFlags (n : BitVec 2) (d : Bool) : Function.Commute blitAdvance (withFlags n d) := by
  intro s
  by_cases h : 0 < s.eng.sx
  · simp only [blitAdvance, withFlags, Eng.blitStep, Eng.rectStep, h, if_true]
  · simp only [blitAdvance, withFlags, Eng.blitStep, Eng.rectStep, h, if_false]
    rfl

theorem polySpan_withFlags (k : BitVec 2) (d : Bool) (n : Nat) (x : Int) (s : State) :
    polySpan n x (withFlags k d s) = withFlags k d (polySpan n x s) := by
  induction n generalizing x s with
  | zero => rfl
  | succ n ih => exact ih (x + 1) (pixel x s.eng.cy (polySource s x) none false s)

theorem polyLoop_withFlags (k : BitVec 2) (d : Bool) (n : Nat) (s : State) :
    polyLoop n (withFlags k d s) = withFlags k d (polyLoop n s) := by
  induction n generalizing s with
  | zero => rfl
  | succ n ih =>
    have hspan := polySpan_withFlags k d (s.eng.polyRight - s.eng.polyLeft + 1).toNat s.eng.polyLeft s
    have hscan : polyScan (withFlags k d s) = withFlags k d (polyScan s) :=
      congrArg (fun t : State => { t with eng := t.eng.polyStep }) hspan
    rw [polyLoop, polyLoop, hscan, ih]

/-- No run looks at the two flags. -/
theorem runOp_withFlags (n : BitVec 2) (d : Bool) (s : State) :
    runOp (withFlags n d s) = withFlags n d (runOp s) := by
  have hwalk (last : State → Bool) (visit advance finish : State → State)
      (hlast : ∀ s, last (withFlags n d s) = last s) (hvisit : Function.Commute visit (withFlags n d))
      (hadvance : Function.Commute advance (withFlags n d)) (hfinish : Function.Commute finish (withFlags n d))
      (fuel : Nat) :=
    runWalk_commute (f := withFlags n d) (fun _ => rfl) hlast hvisit hadvance hfinish fuel s
  have hrect := rectAdvance_withFlags n d
  have hblit := blitAdvance_withFlags n d
  have hclass : (withFlags n d s).eng.cls = s.eng.cls := rfl
  have hcmd : (withFlags n d s).eng.cmd = s.eng.cmd := rfl
  rw [runOp, runOp, hclass, hcmd]
  split
  · rfl
  · split
    · exact hwalk lineLast lineVisit radialAdvance radialFinish (fun _ => rfl) (fun _ => rfl) (fun _ => rfl)
        (fun _ => rfl) (s.eng.sy.toNat + 1)
    · exact hwalk lineLast lineVisit lineAdvance lineFinish (fun _ => rfl) (fun _ => rfl) (fun _ => rfl)
        (fun _ => rfl) (s.eng.sy.toNat + 1)
  · exact hwalk rectLast rectVisit rectAdvance rectFinish (fun _ => rfl) (fun _ => rfl) hrect (fun _ => rfl)
      s.eng.walkLeft
  · exact congrArg polyFinish (polyLoop_withFlags n d (s.eng.sy + 1).toNat s)
  · exact hwalk rectLast ropVisit blitAdvance opDone (fun _ => rfl) (fun _ => rfl) hblit (fun _ => rfl) s.eng.walkLeft
  · exact hwalk polylineLast polylineVisit polylineAdvance polylineFinish (fun _ => rfl) (fun _ => rfl)
      (fun _ => rfl) (fun _ => rfl) ((s.eng.plDx + s.eng.plDy).toNat + 1)
  · exact hwalk rectLast blitVisit blitAdvance opDone (fun _ => rfl) (fun _ => rfl) hblit (fun _ => rfl)
      s.eng.walkLeft
  · exact hwalk rectLast patVisit rectAdvance opDone (fun _ => rfl) (fun _ => rfl) hrect (fun _ => rfl) s.eng.walkLeft

/-! ### The start of an operation with other flags (R154, R285) -/

/-- The start of an operation leaves both, but that a read-back sets `data_available`. -/
theorem initOp_withFlags (n : BitVec 2) (d : Bool) {s : State} (hcls : s.eng.cls = cmdClass s.eng.cmd) :
    initOp (withFlags n d s) = withFlags n (isReadBack s.eng.cmd || d) (initOp s) := by
  by_cases hread : isReadBack s.eng.cmd = true
  · obtain ⟨hclass, -, -⟩ := (isReadBack_iff _).mp hread
    have hinit := initOp_readBack (hcls.trans hclass) hread
    have hinit' := initOp_readBack (s := withFlags n d s) (hcls.trans hclass) hread
    rw [hinit, hinit', hread]
    rfl
  · have hno : isReadBack s.eng.cmd = false := Bool.eq_false_iff.mpr hread
    have hno' : isReadBack (withFlags n d s).eng.cmd = false := hno
    have hclass : (withFlags n d s).eng.cls = s.eng.cls := rfl
    have hcmd : (withFlags n d s).eng.cmd = s.eng.cmd := rfl
    rw [hno, Bool.false_or, initOp, initOp, hclass, hno, hno', hcmd]
    split
    case h_2 => split <;> rfl
    all_goals rfl

theorem beginOp_withFlags (n : BitVec 2) (d : Bool) {s : State} (hcls : s.eng.cls = cmdClass s.eng.cmd) :
    beginOp (withFlags n d s) = withFlags n (isReadBack s.eng.cmd || d) (beginOp s) := by
  have hinit : activate (initOp (withFlags n d s)) =
      withFlags n (isReadBack s.eng.cmd || d) (activate (initOp s)) := congrArg activate (initOp_withFlags n d hcls)
  have hcmd : (withFlags n (isReadBack s.eng.cmd || d) (activate (initOp s))).eng.cmd =
      (activate (initOp s)).eng.cmd := rfl
  simp only [beginOp, hinit, runOp_withFlags, hcmd]
  split <;> rfl

/-- Two starts whose latched states agree but for the two flags answer the same but for them. -/
theorem startOp_withFlags {n : BitVec 2} {d : Bool} {s t : State} (h : latchCmd s = withFlags n d (latchCmd t)) :
    startOp s = thenNext (startOp t) fun u => .next (withFlags n (isReadBack t.regs.cmd || d) u) := by
  have hbegin : beginOp (withFlags n d (latchCmd t)) =
      withFlags n (isReadBack t.regs.cmd || d) (beginOp (latchCmd t)) := beginOp_withFlags n d rfl
  have hgateEq : gate (withFlags n d (latchCmd t)).cfg.cap (withFlags n d (latchCmd t)).eng.cls =
    gate (latchCmd t).cfg.cap (latchCmd t).eng.cls := rfl
  have hrefused : refusedCommand (withFlags n d (latchCmd t)) false (withFlags n d (latchCmd t)).eng.cmd =
    refusedCommand (latchCmd t) false (latchCmd t).eng.cmd := rfl
  by_cases hgate : gate (latchCmd t).cfg.cap (latchCmd t).eng.cls = true
  · simp only [startOp, h, hgateEq, hrefused, hgate, if_true, hbegin]
    cases refusedCommand (latchCmd t) false (latchCmd t).eng.cmd <;> rfl
  · have hread : isReadBack t.regs.cmd = false := by
      refine Bool.eq_false_iff.mpr fun hback => hgate ?_
      obtain ⟨hclass, -, -⟩ := (isReadBack_iff _).mp hback
      exact gate_ungated _ (.inr (.inl hclass))
    simp only [startOp, h, hgateEq, if_neg hgate, hread, Bool.false_or]
    rfl

/-! ### The two writes of `CMD` (R153) -/

/-- A high-byte write of `CMD` latches the word made of it and the stored low byte. -/
theorem latchCmd_writeCmdHigh (v : Word) (s : State) :
    latchCmd (writeCmdHigh v s) = withFlags s.eng.pixCount s.eng.dataAvailable
      (commandState (v.extractLsb' 0 8 ++ s.regs.cmd.extractLsb' 0 8) s) := rfl

end Sys2Proof.Machine

namespace Sys2Proof
open Sys2Proof.Machine

/-- Settles O14: both writes latch the same command, but for two flags that no run looks at. -/
theorem cmdWordIsCommand : Obligations.CmdWordIsCommand := by
  unfold Obligations.CmdWordIsCommand
  intro s v
  refine ⟨?word, fun hhigh hlow hnow => ?high⟩
  case word =>
    rw [exec_cmdInstr]
    exact exec_access _ s
  case high =>
    intro c
    let whole := writeCmdHigh (c.setWidth 32 >>> 8) (writeCmdLow (c.setWidth 32) s)
    have hwhole : exec (cmdInstr .io c) s = startOp whole :=
      (exec_cmdInstr .io c s).trans (hostAccess_portWrite (c.setWidth 32) (by decide) formOf_word hlow hnow)
    have hbyte : exec (.outCmd true .w8 v) s = startOp (writeCmdHigh v s) :=
      exec_outInstr_of_writesNow .cmd v formOf_high hnow hhigh
    have hlatch : latchCmd whole = commandState c s := latchCmd_writeCmd c s
    have hlatchHigh : latchCmd (writeCmdHigh v s) = withFlags s.eng.pixCount s.eng.dataAvailable (latchCmd whole) := by
      rw [latchCmd_writeCmdHigh, hlatch]
    have hcmd : whole.regs.cmd = c := congrArg (fun t : State => t.eng.cmd) hlatch
    refine ⟨fun hcount hdata => ?_, ?_⟩
    · have hsame : latchCmd (writeCmdHigh v s) = latchCmd whole := by
        rw [hlatchHigh, hlatch, hcount, hdata]
        rfl
      rw [hbyte, hwhole, startOp, startOp, hsame]
    · have hflag : (isReadBack whole.regs.cmd || s.eng.dataAvailable) =
          if cmdClass c = 2 ∧ cmdPcdata c = true ∧ cmdWrtdata c = false then true else s.eng.dataAvailable := by
        rw [hcmd]
        by_cases hback : isReadBack c = true
        · rw [if_pos ((isReadBack_iff c).mp hback), hback, Bool.true_or]
        · rw [if_neg (mt (isReadBack_iff c).mpr hback), Bool.eq_false_iff.mpr hback, Bool.false_or]
      rw [hbyte, hwhole, startOp_withFlags hlatchHigh, hflag]
      rfl

end Sys2Proof
end

section
/-!
PROOFS. The data of a completed unit (spec/42_pixel_pipeline.md R240 to R243): its bytes, swapped or not, and the mix bits
and the pixels they make.
-/
namespace Sys2Proof.Machine

/-! ### The bytes of a unit (R162, R243) -/

/-- A unit has one, two or four bytes (R240). -/
theorem unitSize_cases (c : Half) : unitSize c = 1 ∨ unitSize c = 2 ∨ unitSize c = 4 := by
  unfold unitSize
  split
  · exact .inl rfl
  · exact .inr (.inl rfl)
  · exact .inr (.inr rfl)

/-- The bytes of a staged unit are the staging bytes (R162). -/
theorem stagedUnit_byte (p : Vector Byte 4) {n k : Nat} (hn : n = 1 ∨ n = 2 ∨ n = 4) (hk : k < n) :
    (stagedUnit p n).extractLsb' (8 * k) 8 = p.toList.getD k 0 := by
  have hlane (j : Nat) (hj : j < 4) : p.toList.getD j 0 = p[j] := by simp [List.getD, hj]
  have hself (b : Byte) : b.extractLsb' 0 8 = b := BitVec.extractLsb'_eq_self
  rcases hn with rfl | rfl | rfl <;> rw [hlane k (by omega)] <;> interval_cases k <;>
    simp (disch := decide) only [stagedUnit, BitVec.extractLsb'_setWidth_of_le, BitVec.extractLsb'_append_eq_of_le,
      BitVec.extractLsb'_append_eq_of_add_le, Nat.reduceMul, Nat.sub_self, hself]

/-- The lane that a byte of a swapped unit comes from (R243). -/
def swapLane (k : Nat) : Nat := if k % 2 = 0 then k + 1 else k - 1

/-- A swapped unit has the two bytes of each 16-bit half exchanged (R243). -/
theorem swapUnit_byte (c : Half) (n : Nat) (u : Word) {k : Nat} (hk : k < 4) :
    (swapUnit c n u).extractLsb' (8 * k) 8 =
      u.extractLsb' (8 * if c.getLsbD 12 = true ∧ 2 ≤ n then swapLane k else k) 8 := by
  have hself (b : Byte) : b.extractLsb' 0 8 = b := BitVec.extractLsb'_eq_self
  have hswap : cmdSwap c = c.getLsbD 12 := rfl
  by_cases h : c.getLsbD 12 = true ∧ 2 ≤ n
  · have hcond : (cmdSwap c && decide (2 ≤ n)) = true := by rw [hswap, h.1, decide_eq_true h.2]; rfl
    rw [if_pos h, swapUnit, if_pos hcond]
    interval_cases k <;>
      simp (disch := decide) only [swapLane, BitVec.extractLsb'_append_eq_of_le,
        BitVec.extractLsb'_append_eq_of_add_le, Nat.reduceMul, Nat.reduceSub, Nat.sub_self, hself] <;> rfl
  · have hcond : ¬ (cmdSwap c && decide (2 ≤ n)) = true := by
      rw [hswap, Bool.and_eq_true, decide_eq_true_eq]
      exact h
    rw [if_neg h, swapUnit, if_neg hcond]

/-- The unit that a byte completes. -/
def completedUnit (s : State) (b : Byte) : Word :=
  swapUnit s.eng.cmd (unitSize s.regs.cmd)
    (stagedUnit (s.regs.pixTrans.set s.eng.pixCount.toNat b) (unitSize s.regs.cmd))

/-- Its bytes are the fed bytes. -/
theorem completedUnit_byte {s : State} (b : Byte) (hlast : s.eng.pixCount.toNat + 1 = unitSize s.regs.cmd) {k : Nat}
    (hk : k < unitSize s.regs.cmd) : (completedUnit s b).extractLsb' (8 * k) 8 = fedByte s b k := by
  have hsize := unitSize_cases s.regs.cmd
  let j := if s.eng.cmd.getLsbD 12 = true ∧ 2 ≤ unitSize s.regs.cmd then swapLane k else k
  have hj : j < unitSize s.regs.cmd := by
    simp only [j, swapLane]
    split
    next h => split <;> omega
    next h => exact hk
  have hlane : j < 4 := by omega
  have hset : (s.regs.pixTrans.set s.eng.pixCount.toNat b).toList.getD j 0 =
      if j + 1 = unitSize s.regs.cmd then b else s.regs.pixTrans.toList.getD j 0 := by
    by_cases hb : j + 1 = unitSize s.regs.cmd
    · have hindex : s.eng.pixCount.toNat = j := by omega
      simp [List.getD, hlane, hb, hindex]
    · have hindex : s.eng.pixCount.toNat ≠ j := by omega
      simp [List.getD, hlane, hb, hindex]
  rw [completedUnit, swapUnit_byte _ _ _ (by omega), stagedUnit_byte _ hsize hj, hset]
  rfl

/-! ### The mix bits of a unit (R241) -/

theorem unitBits_eq (u : Word) (k n : Nat) :
    unitBits u k n = (List.range (8 * n)).map fun i => (u.extractLsb' (8 * (k + i / 8)) 8).getLsbD (7 - i % 8) := by
  induction n generalizing k with
  | zero => rfl
  | succ n ih =>
    have hrange : List.range (8 * (n + 1)) = List.range 8 ++ (List.range (8 * n)).map (8 + ·) := by
      rw [show 8 * (n + 1) = 8 + 8 * n by ring, List.range_add]
    have hnext (i : Nat) : k + (8 + i) / 8 = k + 1 + i / 8 := by omega
    have hbit (i : Nat) : (8 + i) % 8 = i % 8 := by omega
    rw [hrange, List.map_append, List.map_map, unitBits, ih]
    simp only [Function.comp_def, hnext, hbit]
    rfl

theorem unitBits_completedUnit {s : State} (b : Byte) (hlast : s.eng.pixCount.toNat + 1 = unitSize s.regs.cmd) :
    unitBits (completedUnit s b) 0 (unitSize s.regs.cmd) = unitMixBits s b := by
  rw [unitBits_eq, unitMixBits]
  refine List.map_congr_left fun i hi => ?_
  have hin := List.mem_range.mp hi
  rw [Nat.zero_add, completedUnit_byte b hlast (by omega)]

/-! ### The pixels of a unit (R242) -/

theorem unitPixels_eq (d : Depth) (u : Word) (j n : Nat) :
    unitPixels d u j n = (List.range n).map fun i => (u >>> (8 * pixelBytes d * (j + i))) &&& pixelMask d := by
  induction n generalizing j with
  | zero => rfl
  | succ n ih =>
    have hshift (i : Nat) : j + 1 + i = j + (i + 1) := by omega
    simp only [unitPixels, ih, List.range_succ_eq_map (n := n), List.map_cons, List.map_map, Function.comp_def, hshift]
    rfl

/-- The value that bytes make, the first the least significant. -/
theorem foldr_bytes_getLsbD (f : Nat → Byte) {n b : Nat} (hb : b < 32) :
    ((List.range n).foldr (fun k (v : Word) => (v <<< 8) ||| (f k).setWidth 32) 0).getLsbD b =
      (decide (b < 8 * n) && (f (b / 8)).getLsbD (b % 8)) := by
  induction n generalizing f b with
  | zero => simp
  | succ n ih =>
    rw [List.range_succ_eq_map, List.foldr_cons, List.foldr_map, BitVec.getLsbD_or, BitVec.getLsbD_shiftLeft,
      BitVec.getLsbD_setWidth]
    by_cases hlow : b < 8
    · have hdiv : b / 8 = 0 := by omega
      have hmod : b % 8 = b := by omega
      have hin : b < 8 * (n + 1) := by omega
      simp [hlow, hb, hdiv, hmod, hin]
    · have hdiv : (b - 8) / 8 + 1 = b / 8 := by omega
      have hmod : (b - 8) % 8 = b % 8 := by omega
      have hiff : decide (b - 8 < 8 * n) = decide (b < 8 * (n + 1)) := decide_eq_decide.mpr (by omega)
      have hout : (f 0).getLsbD b = false := BitVec.getLsbD_of_ge _ b (by omega)
      rw [ih (fun k => f (k + 1)) (by omega), hdiv, hmod, hiff, hout]
      simp [hlow, hb]

theorem unitPixels_completedUnit {s : State} (b : Byte) (hlast : s.eng.pixCount.toNat + 1 = unitSize s.regs.cmd) :
    unitPixels s.cfg.depth (completedUnit s b) 0 (unitSize s.regs.cmd / pixelBytes s.cfg.depth) =
      unitPixelValues s b := by
  rw [unitPixels_eq, unitPixelValues]
  refine List.map_congr_left fun i hi => BitVec.eq_of_getLsbD_eq fun k hk => ?_
  have hfew := pixelBytes_le_four s.cfg.depth
  have hsize := unitSize_cases s.regs.cmd
  rw [Nat.zero_add, BitVec.getLsbD_and, BitVec.getLsbD_ushiftRight, foldr_bytes_getLsbD _ hk, pixelMask_eq]
  by_cases hin : k < 8 * pixelBytes s.cfg.depth
  · have hunit : (i + 1) * pixelBytes s.cfg.depth ≤ unitSize s.regs.cmd :=
      (Nat.mul_le_mul_right _ (List.mem_range.mp hi)).trans (Nat.div_mul_le_self _ _)
    have hbyte := completedUnit_byte b hlast (k := i * pixelBytes s.cfg.depth + k / 8) (by
      rw [Nat.add_mul] at hunit
      omega)
    have hsum : 8 * (i * pixelBytes s.cfg.depth + k / 8) + k % 8 = 8 * pixelBytes s.cfg.depth * i + k := by
      have hassoc : 8 * (i * pixelBytes s.cfg.depth) = 8 * pixelBytes s.cfg.depth * i := by ring
      omega
    have hmod : k % 8 < 8 := by omega
    rw [← hbyte, BitVec.getLsbD_extractLsb', hsum]
    simp [hk, hin, hmod]
  · simp [hin]

/-! ### The byte that completes a unit (R162, R240) -/

/-- A unit that fits feeds the operation: it runs on the data left over and the unit's. -/
theorem pixByte_feeds (b : Byte) {s : State} (hactive : s.eng.active = true) (hcpu : takesCpu s.eng.cmd = true)
    (hwrt : cmdWrtdata s.eng.cmd = true) (hlast : s.eng.pixCount.toNat + 1 = unitSize s.regs.cmd)
    (hfit : s.regs.mixSel = 2 ∨ pixelsDoNotFit s.cfg s.regs.cmd = false) :
    pixByte b s = .next (runOp (fedState s b)) := by
  have htakes : ((setPixCount 0 (stageByte b s)).eng.active && takesCpu (setPixCount 0 (stageByte b s)).eng.cmd &&
      cmdWrtdata (setPixCount 0 (stageByte b s)).eng.cmd) = true :=
    show (s.eng.active && takesCpu s.eng.cmd && cmdWrtdata s.eng.cmd) = true by rw [hactive, hcpu, hwrt]; rfl
  have hok : (fedPixels (setPixCount 0 (stageByte b s)).regs (setPixCount 0 (stageByte b s)).eng.cmd &&
      pixelsDoNotFit (setPixCount 0 (stageByte b s)).cfg (setPixCount 0 (stageByte b s)).regs.cmd) = false := by
    show (fedPixels s.regs s.eng.cmd && pixelsDoNotFit s.cfg s.regs.cmd) = false
    rcases hfit with h | h
    · rw [fedPixels, h, decide_eq_true rfl, Bool.not_true, Bool.and_false, Bool.false_and]
    · rw [h, Bool.and_false]
  have hdata : appendUnit (completedUnit s b) (setPixCount 0 (stageByte b s)) = fedState s b := by
    have hbits := unitBits_completedUnit b hlast
    have hpix := unitPixels_completedUnit b hlast
    by_cases hmix : s.regs.mixSel = 2
    · have happend : appendUnit (completedUnit s b) (setPixCount 0 (stageByte b s)) =
          { setPixCount 0 (stageByte b s) with eng := { (setPixCount 0 (stageByte b s)).eng with
            cpuBits := s.eng.cpuBits ++ unitBits (completedUnit s b) 0 (unitSize s.regs.cmd) } } := if_pos hmix
      rw [happend, hbits, fedState, if_pos hmix, if_pos hmix]
      rfl
    · have happend : appendUnit (completedUnit s b) (setPixCount 0 (stageByte b s)) =
          { setPixCount 0 (stageByte b s) with eng := { (setPixCount 0 (stageByte b s)).eng with
            cpuPix := s.eng.cpuPix ++ unitPixels s.cfg.depth (completedUnit s b) 0
              (unitSize s.regs.cmd / pixelBytes s.cfg.depth) } } := if_neg hmix
      rw [happend, hpix, fedState, if_neg hmix, if_neg hmix]
      rfl
  have hunit : swapUnit (setPixCount 0 (stageByte b s)).eng.cmd (unitSize (setPixCount 0 (stageByte b s)).regs.cmd)
      (stagedUnit (setPixCount 0 (stageByte b s)).regs.pixTrans (s.eng.pixCount.toNat + 1)) = completedUnit s b := by
    rw [hlast]
    rfl
  simp only [pixByte, if_pos hlast, htakes, if_true, feed, hok, Bool.false_eq_true, if_false, hunit, hdata]

end Sys2Proof.Machine
end

section
/-!
PROOFS. The run of an operation that the CPU feeds (spec/42_pixel_pipeline.md R240 to R249): it visits as many pixels as
its data reach, a rectangle or a BitBlt within one row, and ends or waits.
-/
namespace Sys2Proof.Machine

/-! ### The data that are used up (R249) -/

/-- An operation that has visited as many pixels as its data reached has none left. -/
theorem noData_visitAll_range {pix : Nat → State → State} (hpix : ∀ k u, ∃ x y v, pix k u = pixel x y v none false u)
    {n : Nat} {s : State} (hcpu : takesCpu s.eng.cmd = true) (hcount : dataCount s = n) :
    (visitAll pix (List.range n) s).hasData = false := by
  refine Bool.eq_false_iff.mpr fun hdata => ?_
  have hleft := (hasData_iff _).mp hdata (by rw [(drew_visitAll_range hpix n s).cmd_eq, hcpu])
  rw [dataCount_visitAll_range hpix n hcpu] at hleft
  omega

/-- Pixels visited one after another change no byte outside all of them. -/
theorem sameOutside_visitAll_range {pix : Nat → State → State} {pos : Nat → Int × Int}
    (hpix : ∀ k u, ∃ v, pix k u = pixel (pos k).1 (pos k).2 v none false u) (n : Nat) (s : State) :
    sameOutside s (visitAll pix (List.range n) s) ((List.range n).map pos) := by
  have hdrew := drew_visitAll_range (fun k u => ⟨_, _, hpix k u⟩)
  induction n with
  | zero => exact fun _ _ => rfl
  | succ n ih =>
    intro a ha
    obtain ⟨v, hv⟩ := hpix n (visitAll pix (List.range n) s)
    have hpixel := sameOutside_pixel (pos n).1 (pos n).2 v none false (visitAll pix (List.range n) s)
    rw [visitAll_range_succ, hv, hpixel a, ih a]
    · exact fun p hp => ha p (by
        rw [List.range_succ, List.map_append]
        exact List.mem_append_left _ hp)
    · intro p hp
      rw [List.mem_singleton.mp hp, (hdrew n s).cfg_eq]
      exact ha _ (by simp [List.range_succ])

/-! ### A fed line (R255, R260) -/

theorem drew_visitLine (lpn : Bool) (ps : List (Int × Int)) (s : State) : Drew s (visitLine lpn ps s) := by
  induction ps generalizing s with
  | nil => exact .refl s
  | cons p ps ih =>
    by_cases hps : ps = []
    · subst hps
      exact drew_pixel ..
    · rw [visitLine_cons _ _ _ hps]
      exact (drew_pixel ..).trans (ih (plain p s))

/-- What a run on CPU data leaves unchanged, and where it may write. -/
def FedKeeps (s t : State) (ps : List (Int × Int)) : Prop :=
  sameContext s t ∧ sameOutside s t ps ∧ t.eng.pixCount = s.eng.pixCount ∧ t.eng.cmd = s.eng.cmd ∧
    t.eng.cls = s.eng.cls

/-- What a line leaves that has visited `n` of its `m + 1` pixels: it has ended after the last, and waits before. -/
def LineFed (s t : State) (place : Nat → Int × Int × Int) (m n : Nat) : Prop :=
  FedKeeps s t (linePixels place n) ∧
    (n ≠ m + 1 → t.vram = (visitAll plain (linePixels place n) s).vram ∧ t.eng.active = s.eng.active ∧
      t.hasData = false ∧ t.regs = s.regs ∧ t.eng.cx = (place n).1 ∧ t.eng.cy = (place n).2.1 ∧
      t.eng.err = (place n).2.2 ∧ t.eng.sy = m - n) ∧
    (n = m + 1 → t.vram = (visitLine (s.cfg.lpnHonoured && cmdLpn s.eng.cmd) (linePixels place n) s).vram ∧
      t.eng.active = false ∧ t.regs = { s.regs with
        subsysStat := s.regs.subsysStat ||| 2#4
        curX := storePos s.cfg (place m).1
        curY := storePos s.cfg (place m).2.1
        errTerm := if cmdRadial s.eng.cmd then s.regs.errTerm else storeErr (place m).2.2 })

/-- A fed line visits the pixels that its data reach. -/
theorem lineFed_runWalk {s : State} {m : Nat} {place : Nat → Int × Int × Int} {advance finish : State → State}
    (hadv : LineSteps s place advance) (hcpu : takesCpu s.eng.cmd = true) (hstart : lineAt (place 0) m s = s)
    (hfinish : ∀ q u, Drew s u → finish (lineAt q 0 u) = opDone { lineAt q 0 u with regs := { u.regs with
      curX := storePos u.cfg q.1
      curY := storePos u.cfg q.2.1
      errTerm := if cmdRadial u.eng.cmd then u.regs.errTerm else storeErr q.2.2 } }) :
    LineFed s (runWalk lineLast lineVisit advance finish (m + 1) s) place m (min (dataCount s) (m + 1)) := by
  by_cases hend : m + 1 ≤ dataCount s
  · have hends := line_ends hadv finish (m := m) fun _ => hend
    have houtside := sameOutside_visitLine (s.cfg.lpnHonoured && cmdLpn s.eng.cmd) (linePixels place (m + 1)) s
    have hdrew := drew_visitLine (s.cfg.lpnHonoured && cmdLpn s.eng.cmd) (linePixels place (m + 1)) s
    rw [hstart, hfinish _ _ hdrew] at hends
    rw [Nat.min_eq_right hend, hends]
    refine ⟨?_, fun hne => absurd rfl hne, fun _ => ⟨rfl, rfl, ?_⟩⟩
    all_goals
      obtain ⟨mem, bits, pix, ph, d, hform⟩ := hdrew
      rw [hform] at houtside ⊢
    · exact ⟨⟨rfl, rfl, rfl, rfl⟩, houtside, rfl, rfl, rfl⟩
    · rfl
  · have hn : dataCount s ≤ m := by omega
    have hwaits := line_waits hadv finish hcpu rfl hn
    have hnone := noData_visitAll_range (pix := fun k => plain ((place k).1, (place k).2.1))
      (fun k u => ⟨_, _, none, rfl⟩) hcpu rfl
    have houtside := sameOutside_visitAll (linePixels place (dataCount s)) s
    have hdrew := drew_visitAll_range (pix := fun k => plain ((place k).1, (place k).2.1))
      (fun k u => ⟨_, _, none, rfl⟩) (dataCount s) s
    rw [hstart] at hwaits
    rw [← visitAll_linePixels] at hnone hdrew
    rw [Nat.min_eq_left (by omega), hwaits]
    refine ⟨?_, fun _ => ⟨rfl, ?_, hnone, ?_, rfl, rfl, rfl, rfl⟩, fun heq => by omega⟩
    all_goals
      obtain ⟨mem, bits, pix, ph, d, hform⟩ := hdrew
      rw [hform] at houtside ⊢
    · exact ⟨⟨rfl, rfl, rfl, rfl⟩, houtside, rfl, rfl, rfl⟩
    · rfl
    · rfl

/-! ### A fed row (R244, R280, R310) -/

/-- The walk at a column of the destination and one of the source, with `left` pixels of the row after this one. -/
def rowAt (x src left : Int) (s : State) : State :=
  { s with eng := { s.eng with cx := x, srcx := src, sx := left } }

/-- The column of pixel `k` of the row's rest. -/
def rowX (s : State) (k : Nat) : Int := s.eng.cx + k * dirX s.eng.cmd

/-- What a class's visits and steps do along the rest of its row, in the states that come from `s` by drawing, and at the
row's end, where no data are kept (R244); `next` is the source position of the next row. -/
structure Rows (s : State) (src : Nat → Int) (next : Int → Int × Int) (visit advance : State → State)
    (pix : Nat → State → State) : Prop where
  start : src 0 = s.eng.srcx
  pixels : ∀ k u, ∃ v, pix k u = pixel (rowX s k) s.eng.cy v none false u
  visits : ∀ k left u, Drew s u → visit (rowAt (rowX s k) (src k) left u) = rowAt (rowX s k) (src k) left (pix k u)
  steps : ∀ k left u, Drew s u → 0 < left →
    advance (rowAt (rowX s k) (src k) left u) = rowAt (rowX s (k + 1)) (src (k + 1)) (left - 1) u
  ends : ∀ x x' left u, Drew s u → ¬ 0 < left → advance (rowAt x x' left u) =
    { u with eng := { u.eng with
        cpuBits := [], cpuPix := [], cx := s.eng.x0, cy := s.eng.cy + dirY s.eng.cmd, sx := s.eng.w
        sy := s.eng.sy - 1, srcx := (next x').1, srcy := (next x').2 } }

/-- What a rectangle or a BitBlt leaves that has visited `n` pixels of the `m + 1` of its row: it waits before the end of
the row, or at the start of the next one, or has ended. -/
def RowFed (s t : State) (src : Nat → Int) (next : Int → Int × Int) (pix : Nat → State → State) (endY : Word)
    (m n : Nat) : Prop :=
  FedKeeps s t ((List.range n).map fun k => (rowX s k, s.eng.cy)) ∧
    t.vram = (visitAll pix (List.range n) s).vram ∧
    (n ≠ m + 1 → t.eng.active = s.eng.active ∧ t.hasData = false ∧ t.regs = s.regs ∧ t.eng.cx = rowX s n ∧
      t.eng.cy = s.eng.cy ∧ t.eng.sx = s.eng.sx - n ∧ t.eng.sy = s.eng.sy ∧ t.eng.srcx = src n ∧
      t.eng.srcy = s.eng.srcy) ∧
    (n = m + 1 → s.eng.sy ≠ 0 → t.eng.active = s.eng.active ∧ t.hasData = false ∧ t.regs = s.regs ∧
      t.eng.cx = s.eng.x0 ∧ t.eng.cy = s.eng.cy + dirY s.eng.cmd ∧ t.eng.sx = s.eng.w ∧ t.eng.sy = s.eng.sy - 1 ∧
      t.eng.cpuBits = [] ∧ t.eng.cpuPix = [] ∧ t.eng.srcx = (next (src m)).1 ∧ t.eng.srcy = (next (src m)).2) ∧
    (n = m + 1 → s.eng.sy = 0 → t.eng.active = false ∧ t.regs = { s.regs with
      subsysStat := s.regs.subsysStat ||| 2#4
      curY := endY })

/-- Short of the end of its last row it is still active, has no data, and has written no register. -/
theorem RowFed.goes_on {s t : State} {src : Nat → Int} {next : Int → Int × Int} {pix : Nat → State → State}
    {endY : Word} {m n : Nat} (h : RowFed s t src next pix endY m n) (hend : ¬ (n = m + 1 ∧ s.eng.sy = 0)) :
    t.eng.active = s.eng.active ∧ t.hasData = false ∧ t.regs = s.regs := by
  obtain ⟨-, -, hwaits, hdown, -⟩ := h
  by_cases hfull : n = m + 1
  · obtain ⟨hon, hnone, hregs, -⟩ := hdown hfull fun hzero => hend ⟨hfull, hzero⟩
    exact ⟨hon, hnone, hregs⟩
  · obtain ⟨hon, hnone, hregs, -⟩ := hwaits hfull
    exact ⟨hon, hnone, hregs⟩

section
variable {s : State} {src : Nat → Int} {next : Int → Int × Int} {visit advance : State → State}
  {pix : Nat → State → State} (hr : Rows s src next visit advance pix)
include hr

theorem Rows.strides {n : Nat} (hn : n ≤ s.eng.sx.toNat) :
    Strides s n (fun k => rowAt (rowX s k) (src k) (s.eng.sx - k)) pix rectLast visit advance where
  data _ _ := rfl
  pixels k u := ⟨_, _, hr.pixels k u⟩
  visits k _ u hu := hr.visits k _ u hu
  more k hk u _ := by
    have hleft : 0 < s.eng.sx - k := by omega
    have hsx : (rowAt (rowX s k) (src k) (s.eng.sx - k) u).eng.sx = s.eng.sx - k := rfl
    rw [rectLast, hsx, decide_eq_true hleft]
    rfl
  advances k hk u hu := by rw [hr.steps k _ u hu (by omega), pixelsLeft_succ]

theorem Rows.rowAt_start : rowAt (rowX s 0) (src 0) (s.eng.sx - (0 : Nat)) s = s := by
  simp only [rowX, hr.start, Nat.cast_zero, zero_mul, add_zero, sub_zero]
  rfl

/-- The walk waits before the first pixel of the row that it has no data for (R249). -/
theorem Rows.runWalk_waits (finish : State → State) {n fuel : Nat} (hcpu : takesCpu s.eng.cmd = true)
    (hcount : dataCount s = n) (hn : n ≤ s.eng.sx.toNat) (hfuel : n ≤ fuel) :
    runWalk rectLast visit advance finish fuel s =
      rowAt (rowX s n) (src n) (s.eng.sx - n) (visitAll pix (List.range n) s) := by
  have hwalk := (hr.strides hn).runWalk_eq finish (fuel - n) fun _ => hcount.ge
  rw [Nat.sub_add_cancel hfuel, hr.rowAt_start] at hwalk
  rw [hwalk]
  exact runWalk_noData _ _ _ _ _ (noData_visitAll_range (fun k u => ⟨_, _, hr.pixels k u⟩) hcpu hcount)

/-- At the last pixel of the row the walk ends, or goes to the next row, where it waits. -/
theorem Rows.runWalk_rowEnd (finish : State → State) {m fuel : Nat} (hcpu : takesCpu s.eng.cmd = true)
    (hsy : 0 ≤ s.eng.sy) (hm : m = s.eng.sx.toNat) (hcount : m + 1 ≤ dataCount s) (hfuel : m + 1 ≤ fuel) :
    runWalk rectLast visit advance finish fuel s =
      if s.eng.sy = 0 then
        finish (rowAt (rowX s m) (src m) (s.eng.sx - m) (visitAll pix (List.range (m + 1)) s))
      else advance (rowAt (rowX s m) (src m) (s.eng.sx - m) (visitAll pix (List.range (m + 1)) s)) := by
  have hpix : ∀ k u, ∃ x y v, pix k u = pixel x y v none false u := fun k u => ⟨_, _, hr.pixels k u⟩
  have hwalk := (hr.strides hm.le).runWalk_eq finish (fuel - m) fun _ => Nat.le_of_succ_le hcount
  have hdata : (rowAt (rowX s m) (src m) (s.eng.sx - m) (visitAll pix (List.range m) s)).hasData = true :=
    (hasData_iff (visitAll pix (List.range m) s)).mpr (fed_visitAll_range hpix fun _ => hcount)
  have hdrew := drew_visitAll_range hpix m s
  have hdrew' := drew_visitAll_range hpix (m + 1) s
  have hleft : ¬ 0 < s.eng.sx - m := by omega
  have hlast : rectLast (rowAt (rowX s m) (src m) (s.eng.sx - m) (visitAll pix (List.range (m + 1)) s)) =
      decide (s.eng.sy = 0) := by
    have hcount : (visitAll pix (List.range (m + 1)) s).eng.sy = s.eng.sy := by
      obtain ⟨mem, bits, px, ph, d, hform⟩ := hdrew'
      rw [hform]
    have hrow : rectLast (rowAt (rowX s m) (src m) (s.eng.sx - m) (visitAll pix (List.range (m + 1)) s)) =
        (!decide (0 < s.eng.sx - m) && !decide (0 < (visitAll pix (List.range (m + 1)) s).eng.sy)) := rfl
    rw [hrow, hcount, decide_eq_false hleft, Bool.not_false, Bool.true_and, ← decide_not]
    exact decide_eq_decide.mpr (by omega)
  have hnone : (advance (rowAt (rowX s m) (src m) (s.eng.sx - m) (visitAll pix (List.range (m + 1)) s))).hasData =
      false := by
    have hcpu' : takesCpu (visitAll pix (List.range (m + 1)) s).eng.cmd = true := by rw [hdrew'.cmd_eq, hcpu]
    rw [hr.ends _ _ _ _ hdrew' hleft, State.hasData, if_pos hcpu']
    split <;> rfl
  have hstep : fuel - m = fuel - (m + 1) + 1 := by omega
  rw [Nat.sub_add_cancel (Nat.le_of_succ_le hfuel), hr.rowAt_start, hstep, runWalk_step _ _ _ _ _ _ hdata,
    hr.visits m _ _ hdrew, ← visitAll_range_succ pix m s, hlast, runWalk_noData _ _ _ _ _ hnone] at hwalk
  simpa only [decide_eq_true_eq] using hwalk

/-- A fed row visits the pixels that its data reach. -/
theorem Rows.rowFed_runWalk {finish : State → State} {endY : Word} (hcpu : takesCpu s.eng.cmd = true)
    (hsy : 0 ≤ s.eng.sy) (hfinish : ∀ x x' left u, Drew s u →
      finish (rowAt x x' left u) = opDone { rowAt x x' left u with regs := { u.regs with curY := endY } }) :
    RowFed s (runWalk rectLast visit advance finish s.eng.walkLeft s) src next pix endY s.eng.sx.toNat
      (min (dataCount s) (s.eng.sx.toNat + 1)) := by
  have hpix : ∀ k u, ∃ x y v, pix k u = pixel x y v none false u := fun k u => ⟨_, _, hr.pixels k u⟩
  have hfuel : s.eng.sx.toNat + 1 ≤ s.eng.walkLeft := by
    unfold Eng.walkLeft
    omega
  obtain ⟨m, hm⟩ : ∃ m, m = s.eng.sx.toNat := ⟨_, rfl⟩
  rw [← hm] at hfuel ⊢
  obtain ⟨n, hn⟩ : ∃ n, n = min (dataCount s) (m + 1) := ⟨_, rfl⟩
  have houtside := sameOutside_visitAll_range (pos := fun k => (rowX s k, s.eng.cy)) hr.pixels n s
  have hdrew := drew_visitAll_range hpix n s
  rw [← hn]
  by_cases hend : m + 1 ≤ dataCount s
  · have hroom : n = m + 1 := hn.trans (Nat.min_eq_right hend)
    have hleft : ¬ 0 < s.eng.sx - m := by omega
    subst hroom
    rw [hr.runWalk_rowEnd finish hcpu hsy hm hend hfuel]
    by_cases hlast : s.eng.sy = 0
    · rw [if_pos hlast, hfinish _ _ _ _ hdrew]
      refine ⟨?_, rfl, fun hne => absurd rfl hne, fun _ hne => absurd hlast hne, fun _ _ => ⟨rfl, ?_⟩⟩
      all_goals
        obtain ⟨mem, bits, px, ph, d, hform⟩ := hdrew
        rw [hform] at houtside ⊢
      · exact ⟨⟨rfl, rfl, rfl, rfl⟩, houtside, rfl, rfl, rfl⟩
      · rfl
    · have hnone : (advance (rowAt (rowX s m) (src m) (s.eng.sx - m)
          (visitAll pix (List.range (m + 1)) s))).hasData = false := by
        have hcpu' : takesCpu (visitAll pix (List.range (m + 1)) s).eng.cmd = true := by rw [hdrew.cmd_eq, hcpu]
        rw [hr.ends _ _ _ _ hdrew hleft, State.hasData, if_pos hcpu']
        split <;> rfl
      rw [if_neg hlast]
      rw [hr.ends _ _ _ _ hdrew hleft] at hnone ⊢
      refine ⟨?_, rfl, fun hne => absurd rfl hne, fun _ _ => ⟨?_, hnone, ?_, rfl, rfl, rfl, rfl, rfl, rfl, rfl, rfl⟩,
        fun _ hzero => absurd hzero hlast⟩
      all_goals
        obtain ⟨mem, bits, px, ph, d, hform⟩ := hdrew
        rw [hform] at houtside ⊢
      exact ⟨⟨rfl, rfl, rfl, rfl⟩, houtside, rfl, rfl, rfl⟩
  · have hcount : dataCount s = n := by omega
    have hnone := noData_visitAll_range hpix hcpu hcount
    rw [hr.runWalk_waits finish hcpu hcount (by omega) (by omega)]
    refine ⟨?_, rfl, fun _ => ⟨?_, hnone, ?_, rfl, ?_, rfl, ?_, rfl, ?_⟩, fun heq => by omega, fun heq => by omega⟩
    all_goals
      obtain ⟨mem, bits, px, ph, d, hform⟩ := hdrew
      rw [hform] at houtside ⊢
    · exact ⟨⟨rfl, rfl, rfl, rfl⟩, houtside, rfl, rfl, rfl⟩
    all_goals rfl

end

/-! ### The rows of a rectangle and of a BitBlt -/

theorem rowX_succ (s : State) (k : Nat) : rowX s k + dirX s.eng.cmd = rowX s (k + 1) := position_succ ..

theorem rectAdvance_rowAt {left : Int} (x x' : Int) (u : State) (h : 0 < left) :
    rectAdvance (rowAt x x' left u) = rowAt (x + dirX u.eng.cmd) x' (left - 1) u := by
  have hmore : 0 < (rowAt x x' left u).eng.sx := h
  rw [rectAdvance, Eng.rectStep, if_pos hmore]
  rfl

theorem rectAdvance_rowEnd {left : Int} (x x' : Int) (u : State) (h : ¬ 0 < left) :
    rectAdvance (rowAt x x' left u) = { u with eng := { u.eng with
      cpuBits := [], cpuPix := [], cx := u.eng.x0, cy := u.eng.cy + dirY u.eng.cmd, sx := u.eng.w
      sy := u.eng.sy - 1, srcx := x' } } := by
  have hend : ¬ 0 < (rowAt x x' left u).eng.sx := h
  rw [rectAdvance, Eng.rectStep, if_neg hend]
  rfl

theorem blitAdvance_rowAt {left : Int} (x x' : Int) (u : State) (h : 0 < left) :
    blitAdvance (rowAt x x' left u) = rowAt (x + dirX u.eng.cmd) (x' + dirX u.eng.cmd) (left - 1) u := by
  have hmore : 0 < (rowAt x x' left u).eng.sx := h
  rw [blitAdvance, Eng.blitStep, if_pos hmore, Eng.rectStep, if_pos hmore]
  rfl

theorem blitAdvance_rowEnd {left : Int} (x x' : Int) (u : State) (h : ¬ 0 < left) :
    blitAdvance (rowAt x x' left u) = { u with eng := { u.eng with
      cpuBits := [], cpuPix := [], cx := u.eng.x0, cy := u.eng.cy + dirY u.eng.cmd, sx := u.eng.w
      sy := u.eng.sy - 1, srcx := u.eng.srcx0, srcy := u.eng.srcy + dirY u.eng.cmd } } := by
  have hend : ¬ 0 < (rowAt x x' left u).eng.sx := h
  rw [blitAdvance, Eng.blitStep, if_neg hend, Eng.rectStep, if_neg hend]
  rfl

/-- The rest of a rectangle's row, with no source (R280). -/
theorem rows_rect (s : State) :
    Rows s (fun _ => s.eng.srcx) (fun x => (x, s.eng.srcy)) rectVisit rectAdvance
      (fun k => plain (rowX s k, s.eng.cy)) where
  start := rfl
  pixels k u := ⟨none, rfl⟩
  visits k left u hu := by
    obtain ⟨m, bits, pix, ph, n, rfl⟩ := hu
    rfl
  steps k left u hu hmore := by rw [rectAdvance_rowAt _ _ _ hmore, hu.cmd_eq, rowX_succ]
  ends x x' left u hu hend := by
    rw [rectAdvance_rowEnd _ _ _ hend]
    obtain ⟨m, bits, pix, ph, n, rfl⟩ := hu
    rfl

/-- The column of the source of pixel `k` of a BitBlt's rest of a row (R310). -/
def sourceX (s : State) (k : Nat) : Int := s.eng.srcx + k * dirX s.eng.cmd

/-- Pixel `k` of a BitBlt's rest of a row, its source read at the step (R310). -/
def blitPixel (s : State) (k : Nat) (u : State) : State :=
  pixel (rowX s k) s.eng.cy (some (sourceAt u (sourceX s k) s.eng.srcy)) none false u

theorem rows_blit (s : State) :
    Rows s (sourceX s) (fun _ => (s.eng.srcx0, s.eng.srcy + dirY s.eng.cmd)) blitVisit blitAdvance (blitPixel s) where
  start := by simp [sourceX]
  pixels k u := ⟨_, rfl⟩
  visits k left u hu := by
    obtain ⟨m, bits, pix, ph, n, rfl⟩ := hu
    rfl
  steps k left u hu hmore := by
    have hsource : sourceX s k + dirX s.eng.cmd = sourceX s (k + 1) := position_succ ..
    rw [blitAdvance_rowAt _ _ _ hmore, hu.cmd_eq, rowX_succ, hsource]
  ends x x' left u hu hend := by
    rw [blitAdvance_rowEnd _ _ _ hend]
    obtain ⟨m, bits, pix, ph, n, rfl⟩ := hu
    rfl

/-! ### The run of a fed operation, by its class -/

/-- A fed line runs along its places, as its step takes them. -/
theorem lineFed_runOp {s : State} {place : Nat → Int × Int × Int} (hcls : s.eng.cls = 1)
    (hcpu : takesCpu s.eng.cmd = true) (hsy : 0 ≤ s.eng.sy)
    (hplace : place = fun (k : Nat) => if cmdRadial s.eng.cmd then
      (s.eng.cx + k * ddx (cmdDir s.eng.cmd), s.eng.cy + k * ddy (cmdDir s.eng.cmd), s.eng.err)
      else after (bresenham s.eng.cmd s.eng.ax s.eng.dia) k (s.eng.cx, s.eng.cy, s.eng.err)) :
    LineFed s (runOp s) place s.eng.sy.toNat (min (dataCount s) (s.eng.sy.toNat + 1)) := by
  have hcount : (s.eng.sy.toNat : Int) = s.eng.sy := Int.toNat_of_nonneg hsy
  cases hradial : cmdRadial s.eng.cmd with
  | true =>
    simp only [hradial, if_true] at hplace
    subst hplace
    rw [runOp_radial hcls hradial]
    refine lineFed_runWalk (lineSteps_radial _ _ _) hcpu ?_ fun q u hu => ?_
    · simp only [lineAt, hcount, Nat.cast_zero, zero_mul, add_zero]
    · have hradial' : cmdRadial u.eng.cmd = true := by rw [hu.cmd_eq, hradial]
      rw [if_pos hradial']
      rfl
  | false =>
    simp only [hradial, Bool.false_eq_true, if_false] at hplace
    subst hplace
    rw [runOp_line hcls hradial]
    refine lineFed_runWalk (lineSteps_bresenham _) hcpu ?_ fun q u hu => ?_
    · simp only [lineAt, hcount, after]
    · have hradial' : ¬ cmdRadial u.eng.cmd = true := by rw [hu.cmd_eq, hradial]; decide
      rw [if_neg hradial']
      rfl

theorem rowFed_rect {s : State} (hcls : s.eng.cls = 2) (hcpu : takesCpu s.eng.cmd = true) (hsy : 0 ≤ s.eng.sy) :
    RowFed s (runOp s) (fun _ => s.eng.srcx) (fun x => (x, s.eng.srcy)) (fun k => plain (rowX s k, s.eng.cy))
      (storePos s.cfg (s.eng.cy + dirY s.eng.cmd)) s.eng.sx.toNat (min (dataCount s) (s.eng.sx.toNat + 1)) := by
  rw [runOp_rect hcls]
  refine (rows_rect s).rowFed_runWalk hcpu hsy fun x x' left u hu => ?_
  obtain ⟨m, bits, pix, ph, n, rfl⟩ := hu
  rfl

theorem runOp_blit {s : State} (h : s.eng.cls = 6) : runOp s = blitRun s := by
  rw [runOp, h]
  rfl

theorem rowFed_blit {s : State} (hcls : s.eng.cls = 6) (hcpu : takesCpu s.eng.cmd = true) (hsy : 0 ≤ s.eng.sy) :
    RowFed s (runOp s) (sourceX s) (fun _ => (s.eng.srcx0, s.eng.srcy + dirY s.eng.cmd)) (blitPixel s)
      s.regs.curY s.eng.sx.toNat (min (dataCount s) (s.eng.sx.toNat + 1)) := by
  rw [runOp_blit hcls]
  refine (rows_blit s).rowFed_runWalk hcpu hsy fun x x' left u hu => ?_
  obtain ⟨m, bits, pix, ph, n, rfl⟩ := hu
  rfl

end Sys2Proof.Machine

namespace Sys2Proof
open Sys2Proof.Machine

/-- Settles O17: the completed unit follows the data left over, and each class's walk goes as far as they reach. -/
theorem pixTransFeeds : Obligations.PixTransFeeds := by
  unfold Obligations.PixTransFeeds
  intro s lane v hnamed hnow hok hactive hwrt hlast hfit e u isLine place room n ps last ends
  obtain ⟨hcpu, hcls, -, hsy⟩ := hok hactive
  have hexec : exec (.outPixTrans lane .w8 v) s = .next (runOp u) := by
    rw [exec_outPixTrans_byte v hnamed hnow]
    refine pixByte_feeds _ hactive hcpu hwrt hlast (hfit.imp_right fun ⟨hdepth, hbytes⟩ => ?_)
    exact Bool.eq_false_iff.mpr fun h => ((pixelsDoNotFit_iff ..).mp h).elim hdepth (Nat.not_lt.mpr hbytes)
  refine ⟨_, hexec, ?_⟩
  have hrow (hnotLine : cmdClass e.cmd ≠ 1) : room = e.sx.toNat + 1 ∧
      ps = (List.range n).map fun k => (rowX u k, u.eng.cy) := by
    refine ⟨congrArg (· + 1) (if_neg hnotLine), List.map_congr_left fun k _ => ?_⟩
    have hplace : place k = (e.cx + k * dirX e.cmd, e.cy, e.err) := if_neg hnotLine
    rw [hplace]
    rfl
  rcases cmdClass_of_takesCpu hcpu with hclass | hclass | hclass
  case inl =>
    have hroom : room = e.sy.toNat + 1 := congrArg (· + 1) (if_pos hclass)
    have hplace : place = fun (k : Nat) => if cmdRadial e.cmd then
        (e.cx + k * ddx (cmdDir e.cmd), e.cy + k * ddy (cmdDir e.cmd), e.err)
        else after (bresenham e.cmd e.ax e.dia) k (e.cx, e.cy, e.err) := funext fun k => if_pos hclass
    have hfed : LineFed u (runOp u) place e.sy.toNat n := by
      have hrun := lineFed_runOp (s := u) (hcls.trans hclass) hcpu hsy hplace
      simp only [n, hroom]
      exact hrun
    have hcount : (e.sy.toNat : Int) = e.sy := Int.toNat_of_nonneg hsy
    obtain ⟨⟨hcontext, houtside, hpixCount, hcmd, hkeep⟩, hwaits, hends⟩ := hfed
    rw [← hroom] at hwaits hends
    refine ⟨hcontext, houtside, hpixCount, hcmd, hkeep, fun h => ?_, fun h => ?_, fun _ h => (hwaits h).1,
      fun _ h => (hends h).1, fun ⟨h, _⟩ => ?_, fun h => ?_⟩
    · exact absurd (hclass.symm.trans h) (by decide)
    · exact absurd (hclass.symm.trans h) (by decide)
    · obtain ⟨-, hended, hregs⟩ := hends h
      have hlastPlace : last = place e.sy.toNat := congrArg place (by rw [h, hroom]; rfl)
      refine ⟨hended, ?_⟩
      rw [hregs, hlastPlace]
      have hisLine : cmdClass e.cmd = 1 := hclass
      have hradial : cmdRadial u.eng.cmd = e.cmd.getLsbD 3 := rfl
      simp only [hisLine, hradial, if_true, true_and]
      cases e.cmd.getLsbD 3 <;> rfl
    · have hroom' : n ≠ room := fun heq => h ⟨heq, .inl hclass⟩
      obtain ⟨-, hon, hnone, hregs, hcx, hcy, herr, hleft⟩ := hwaits hroom'
      exact ⟨hon.trans hactive, hnone, hregs, fun _ => ⟨hcx, hcy, herr, by rw [hleft, hcount]⟩,
        fun hno => absurd hclass hno, fun hno => absurd hclass hno⟩
  case inr.inl =>
    have hrect : cmdClass e.cmd = 2 := hclass
    have hnotLine : cmdClass e.cmd ≠ 1 := by rw [hrect]; decide
    obtain ⟨hroom, hps⟩ := hrow hnotLine
    have hfed : RowFed u (runOp u) (fun _ => e.srcx) (fun x => (x, e.srcy)) (fun k => plain (rowX u k, e.cy))
        (storePos s.cfg (e.cy + dirY e.cmd)) e.sx.toNat n := by
      have hrun := rowFed_rect (s := u) (hcls.trans hclass) hcpu hsy
      simp only [n, hroom]
      exact hrun
    have hvisited : visitAll plain ps u = visitAll (fun k => plain (rowX u k, e.cy)) (List.range n) u := by
      rw [hps]
      exact List.foldl_map
    have hgoesOn := hfed.goes_on
    obtain ⟨⟨hcontext, houtside, hpixCount, hcmd, hkeep⟩, hvram, hwaits, hdown, hends⟩ := hfed
    rw [← hroom] at hwaits hdown hends
    rw [← hps] at houtside
    refine ⟨hcontext, houtside, hpixCount, hcmd, hkeep, fun _ => ?_, fun h => ?_, fun h => absurd h hnotLine,
      fun h => absurd h hnotLine, fun ⟨h, hlastRow⟩ => ?_, fun h => ?_⟩
    · rw [hvram, hvisited]
    · exact absurd (hrect.symm.trans h) (by decide)
    · obtain ⟨hended, hregs⟩ := hends h (hlastRow.resolve_left hnotLine)
      refine ⟨hended, ?_⟩
      rw [hregs]
      simp only [hrect]
      rfl
    · obtain ⟨hon, hnone, hregs⟩ := hgoesOn fun ⟨hfull, hzero⟩ => h ⟨hfull.trans hroom.symm, .inr hzero⟩
      refine ⟨hon.trans hactive, hnone, hregs, fun hline => absurd hline hnotLine, fun _ hfew => ?_, fun _ hfull => ?_⟩
      · obtain ⟨-, -, -, hcx, hcy, hsx, hrows, -⟩ := hwaits hfew
        exact ⟨hcx, hcy, hsx, hrows, fun hblit => absurd (hrect.symm.trans hblit) (by decide)⟩
      · obtain ⟨-, -, -, hcx, hcy, hsx, hrows, hbits, hpix, -⟩ :=
          hdown hfull fun hzero => h ⟨hfull, .inr hzero⟩
        exact ⟨hcx, hcy, hsx, hrows, hbits, hpix, fun hblit => absurd (hrect.symm.trans hblit) (by decide)⟩
  case inr.inr =>
    have hblit : cmdClass e.cmd = 6 := hclass
    have hnotLine : cmdClass e.cmd ≠ 1 := by rw [hblit]; decide
    obtain ⟨hroom, hps⟩ := hrow hnotLine
    have hfed : RowFed u (runOp u) (sourceX u) (fun _ => (e.srcx0, e.srcy + dirY e.cmd)) (blitPixel u) s.regs.curY
        e.sx.toNat n := by
      have hrun := rowFed_blit (s := u) (hcls.trans hclass) hcpu hsy
      simp only [n, hroom]
      exact hrun
    have hgoesOn := hfed.goes_on
    obtain ⟨⟨hcontext, houtside, hpixCount, hcmd, hkeep⟩, hvram, hwaits, hdown, hends⟩ := hfed
    rw [← hroom] at hwaits hdown hends
    rw [← hps] at houtside
    refine ⟨hcontext, houtside, hpixCount, hcmd, hkeep, fun h => ?_, fun _ => hvram, fun h => absurd h hnotLine,
      fun h => absurd h hnotLine, fun ⟨h, hlastRow⟩ => ?_, fun h => ?_⟩
    · exact absurd (hblit.symm.trans h) (by decide)
    · obtain ⟨hended, hregs⟩ := hends h (hlastRow.resolve_left hnotLine)
      refine ⟨hended, ?_⟩
      rw [hregs]
      simp only [hblit]
      rfl
    · obtain ⟨hon, hnone, hregs⟩ := hgoesOn fun ⟨hfull, hzero⟩ => h ⟨hfull.trans hroom.symm, .inr hzero⟩
      refine ⟨hon.trans hactive, hnone, hregs, fun hline => absurd hline hnotLine, fun _ hfew => ?_, fun _ hfull => ?_⟩
      · obtain ⟨-, -, -, hcx, hcy, hsx, hrows, hsrcx, hsrcy⟩ := hwaits hfew
        exact ⟨hcx, hcy, hsx, hrows, fun _ => ⟨hsrcx, hsrcy⟩⟩
      · obtain ⟨-, -, -, hcx, hcy, hsx, hrows, hbits, hpix, hsrcx, hsrcy⟩ :=
          hdown hfull fun hzero => h ⟨hfull, .inr hzero⟩
        exact ⟨hcx, hcy, hsx, hrows, hbits, hpix, fun _ => ⟨hsrcx, hsrcy⟩⟩

end Sys2Proof
end
